-- ==== Sys2Proof/Word.lean ====
section
/-! DEFINITION. The word types of the LS6 and the numbers by which its parts are named. -/

namespace Sys2Proof

/-- One byte of a serial link (R91, R125). -/
abbrev Byte := BitVec 8
/-- One word of foyer memory and of a lane's data lines (00_scope.md). -/
abbrev Word := BitVec 16
/-- A word address of foyer memory, 00000h to 3FFFFh (00_scope.md). -/
abbrev Addr := BitVec 18
/-- A value of the run-second count, which wraps at 2^24 (R3). -/
abbrev RunSecond := BitVec 24
/-- A lane, 0 to 5; lane 0 is the supervisor. -/
abbrev Lane := Fin 6
/-- An order slot, 0 to 23. -/
abbrev SlotNo := Fin 24
/-- A show, 0 to 15. -/
abbrev ShowNo := Fin 16
/-- A printer, 0 or 1. -/
abbrev Printer := Fin 2
/-- A voucher index, 0 to 255. -/
abbrev VoucherNo := Fin 256

end Sys2Proof
end

