-- ==== Sys2Proof/Syntax.lean ====
section
/-! DEFINITION. The commands of the LS6: one constructor of `Instr` per row of spec/opcode_table.json. -/

namespace Sys2Proof

/-- The blocks of the part that take requests one at a time (00_scope.md, Block overview). -/
inductive Block
  | clock | shows | hold | order | directory | log | attention | print | sweep | setup | tender
  | side (p : Printer)
  | lane (n : Lane)
  deriving DecidableEq, Repr

/-- How a decision that asks other blocks goes on (R69: "each of those blocks takes the request in its
own order of requests"): `whole`, the asked block takes each request at once when it is free; `parts`,
each request that has a row of its own waits for that row, so other requests may be taken between. -/
inductive Pace
  | whole | parts
  deriving DecidableEq, Repr

/-- What the concentrator clocks on the tender link (R91): the bytes of whole byte times, then the bit
position, 0 to 7, at which the clock stops in the next byte time (0: that byte time has not begun). -/
structure Clocking where
  bytes : List Byte
  bits : Nat := 0
  deriving DecidableEq, Repr

/-- The commands. A lane row names the lane; its address and value are those of the lane's access in
progress (R49). The rows whose summary is a block's own event name what the event concerns. -/
inductive Instr
  -- power, reset and the foyer clock
  | powerOn
  | resetPin
  | resetRelease
  | eighthEvent
  | secondEvent
  | minuteEvent
  -- lane accesses and the memory port
  | laneRead (n : Lane)
  | passedWrite (n : Lane)
  | ownedWrite (n : Lane)
  | portGrant
  | updateDrain
  | clockSetDay (n : Lane)
  | clockSetMinute (n : Lane)
  | takeWrite (n : Lane)
  -- shows and prices
  | showRecordWrite (n : Lane)
  | openShow (n : Lane)
  | cut (n : Lane)
  | retire (n : Lane) (pace : Pace)
  | priceWrite (n : Lane)
  -- seats
  | claim (n : Lane)
  | seatRelease (n : Lane)
  | edit (n : Lane) (pace : Pace)
  -- order slots
  | orderRecordWrite (n : Lane)
  | spoolWrite (n : Lane)
  | close (n : Lane) (pace : Pace)
  | cancel (n : Lane) (pace : Pace)
  | release (n : Lane) (pace : Pace)
  | reprint (n : Lane) (pace : Pace)
  | forceDone (n : Lane) (pace : Pace)
  | redeem (n : Lane) (pace : Pace)
  -- lane blocks and the lane watch
  | flagClear (n : Lane)
  | maskWrite (n : Lane)
  | enable (n : Lane)
  | refresh (n : Lane)
  | rejoin (n : Lane)
  -- setup
  | headerWordWrite (n : Lane)
  | accept (n : Lane)
  | withdraw (n : Lane)
  -- events of the hold unit, the lane watch and their requests
  | expiryRemoval
  | warningPass
  | watchNotice (n : Lane)
  | lapse (n : Lane)
  | darkRelease (sh : ShowNo)
  | lapseRelease (n : Lane)
  | slotTeardown (n : Lane) (pace : Pace)
  | holdQuestion (asker : Block)
  | pendRequest
  | saleRequest
  | returnRequest
  | dropRequest
  -- the tender link
  | tenderTimeout (pace : Pace)
  | quietSpell
  | transactionStart
  | transactionEnd
  | poll (command : Byte) (clk : Clocking)
  | fetch (clk : Clocking)
  | report (clk : Clocking)
  | abandon (clk : Clocking)
  | linkRequestSettle
  | fetchTake (pace : Pace)
  | takenResult (pace : Pace)
  | lateResult (pace : Pace)
  | takenAbandon (pace : Pace)
  -- printing; an answer of none begins the exchange and leaves it open
  | jobHandoff
  | jobStart (p : Printer)
  | spoolRead
  | blockFill (p : Printer)
  | dataBlock (p : Printer) (answer : Option Byte)
  | progressRequest (p : Printer)
  | cutBlock (p : Printer) (answer : Option Byte)
  | statusBlock (p : Printer) (answer : Option Byte)
  -- sweeps and the directory work of an acceptance
  | openingSweep
  | sweepEnd
  | voucherClear
  | voucherRebuild
  | enterRunning
  -- requests to the voucher directory, the log writer and the attention unit
  | voucherReserve
  | voucherIssue
  | voucherReturn
  | voucherRetire
  | logReserve (asker : Block)
  | logHandBack (asker : Block)
  | logWriteReserved (asker : Block)
  | logWriteFree (asker : Block)
  | setRequest (asker : Block)
  | refusal (n : Lane)
  | accessBegin (n : Lane) (a : Addr) (write : Option Word)
  deriving DecidableEq, Repr

end Sys2Proof
end

