-- ==== Sys2Proof/Config.lean ====
section
/-! DEFINITION. What the spec leaves open: the free values of the model. -/

namespace Sys2Proof

/-- The contents of foyer memory after the `n`th power-on, as written cells: "After power-on the
contents of memory are undefined" (R168). A FREE VALUE: no body, so nothing can be proved of it. -/
opaque Config.powerOnCells : Nat → List (Addr × Word)

end Sys2Proof
end

