-- ==== Sys2Proof/Machine/State.lean ====
section
/-! DEFINITION. The state of the LS6 and of the foyer memory behind it, as plain data, and the state after
power-on. Each block's structure names the rules that give its state and its reset values. -/

namespace Sys2Proof.Machine

/-- Nothing in the spec stops the part: every access is passed, taken or refused with a reason, every link
byte has an answer, and all 2^18 word addresses exist (00_scope.md). So no step ends in a fault: no
constructor, hence nothing raises one (safe). -/
inductive Fault
  deriving DecidableEq, Repr

/-- The reasons a command has no meaning. -/
inductive Refusal
  /-- Raised by `exec` alone, for a row with no meaning yet: safe, since the machine stops. -/
  | notModelled (mnemonic : String)
  deriving DecidableEq, Repr

/-! ### Names and codes -/

/-- The refusal reasons (10.4). -/
inductive Reason
  | taken | notYours | showShut | noSeat | seatState | quota | holdsFull | renewLimit | badRequest
  | role | lapsed | sweeping | sequence | slotState | slotOwner | holdMissing | orderForm | noVoucher
  | logFull | badTag | voucherState | alreadyRedeemed | readOnly | busy | showForm | showBusy
  | printLimit | watchSet | badTake | expired
  deriving DecidableEq, Repr

/-- The attention flags, in the order of their positions 0 to 15 (10.2). -/
inductive Flag
  | orderEnd | tenderStart | holdWarn | holdLost | refused | printFault | showChange | lapsed
  | logHalf | logFull | lateResult | querySeats | tenderQuiet | laneQuiet | printerDown | setupState
  deriving DecidableEq, Repr

/-- The nine users of the memory port (R60). -/
inductive Requester
  | lane (n : Lane) | drain | printReader | sweepReader
  deriving DecidableEq, Repr

/-- The printer choice of a job hand-off (R118). -/
inductive Choice
  | preferred | printer (p : Printer)
  deriving DecidableEq, Repr

/-- The six characters of an auth code (R67). -/
abbrev Auth := Vector Byte 6

/-! ### Foyer memory and the lane interfaces -/

/-- Foyer memory as cells of word address and word, rising, none holding 0000h (what an unlisted word
reads as). -/
abbrev Memory := List (Nat × Word)

/-- A lane's sales role (R49). -/
inductive Role
  | none | kiosk | counter
  deriving DecidableEq, Repr

/-- A lane's access in progress (R49): a read, or a write of a value; `decided` once its owning block has
taken or refused it. `passes`: a passed write that asked for its grant before the part entered CHECKING; it
goes on as one (R59, R64). -/
structure Access where
  addr : Addr
  write : Option Word
  decided : Bool
  passes : Bool
  deriving DecidableEq, Repr

/-- A lane's watch (R42). `interval` is the code of the interval: 4, 8, 16, 32 s. -/
structure Watch where
  on : Bool
  lapseMode : Bool
  interval : Fin 4
  countdown : Nat
  deriving DecidableEq, Repr

/-- A lane interface (R42, R44, R49). `dout` is what the part last drove on the lane's data lines. -/
structure LaneIf where
  role : Role
  lapsed : Bool
  quiet : Bool
  watch : Watch
  releaseDue : Bool
  teardownDue : Bool
  access : Option Access
  dout : Option Word
  deriving DecidableEq, Repr

/-- The windows of the accepted header, in units of 256 words (R53); the log exponent gives LOG's size. -/
structure Windows where
  seatBase : Nat
  seatSize : Nat
  orderBase : Nat
  spoolBase : Nat
  voucherBase : Nat
  logBase : Nat
  logExp : Nat
  deriving DecidableEq, Repr

/-! ### The foyer clock and the show table -/

/-- The foyer clock (R1, R5). -/
structure Clock where
  prescaler : Nat
  eighth : Nat
  second : Nat
  minute : Nat
  day : Word
  run : RunSecond
  started : Bool
  pendingDay : Option Word
  deriving DecidableEq, Repr

/-- Show states (R8); `opened` is the manual's OPEN. -/
inductive ShowState
  | vacant | opening | opened | cutoff | dark
  deriving DecidableEq, Repr

/-- The last taken command of a show (R8). -/
inductive LastCommand
  | none | opened | retired
  deriving DecidableEq, Repr

/-- A show table entry (R8). -/
structure ShowEntry where
  state : ShowState
  cursor : Nat
  cut : Bool
  fault : Bool
  last : LastCommand
  words : Vector (Option Word) 7
  start : Nat
  cutoff : Nat
  expiry : Nat
  deriving DecidableEq, Repr

/-! ### The hold unit -/

/-- A hold entry in use (R20). It is PENDING exactly when it carries a slot, and HELD otherwise. -/
structure Hold where
  showNo : ShowNo
  seat : Nat
  lane : Lane
  cls : Nat
  expiry : RunSecond
  renewals : Nat
  warned : Bool
  slot : Option SlotNo
  deriving DecidableEq, Repr

/-- The hold unit (R20 to R23, R31). `holds` is the entries in use; its HELD ones, in order, are the expiry
list, earliest first. -/
structure HoldUnit where
  holds : List Hold
  duration : Nat
  warnLead : Nat
  quota : Vector Nat 6
  round : Bool
  darkDue : List ShowNo
  deriving DecidableEq, Repr

/-! ### The order unit -/

/-- Slot states (R67, 10.4). -/
inductive SlotState
  | empty | assembling | refused | queued | tendering | approved | printing | printHalted | done
  | declined | cancelled | abandoned | timedOut | void
  deriving DecidableEq, Repr

/-- The late outcome of a TIMED_OUT slot (R89). -/
inductive Late
  | approved | declined
  deriving DecidableEq, Repr

/-- A slot shadow (R67). -/
structure Shadow where
  state : SlotState
  owner : Option Lane
  cursor : Nat
  words : Vector (Option Word) 15
  reason : Option Reason
  amount : Option Nat
  vouchers : List VoucherNo
  seq : Option Byte
  deadline : Option RunSecond
  auth : Option Auth
  offset : Nat
  strips : Nat
  firstSerial : Option (BitVec 32)
  reprints : Nat
  late : Option Late
  reserved : Nat
  deriving DecidableEq, Repr

/-- The order unit (R56, R67, R83, R95). `due` holds the slots that a deadline examination found reached
and that have not been timed out yet (R85). -/
structure OrderUnit where
  slots : Vector Shadow 24
  payQueue : List SlotNo
  window : List SlotNo
  prices : Vector Word 24
  due : List SlotNo
  deriving DecidableEq, Repr

/-! ### The tender link interface -/

/-- Verdicts of REPORT and ABANDON (10.5). -/
inductive Verdict
  | taken | badCheck | closed | unknown | stale | tooLate
  deriving DecidableEq, Repr

/-- Where the verdict delivery of the transaction stands (R101). -/
inductive Delivery
  | none | waiting | decided (v : Verdict)
  deriving DecidableEq, Repr

/-- The three kinds of link request (R96). -/
inductive LinkKind
  | fetch (deadline : RunSecond)
  | result (outcome : Byte) (auth : Auth)
  | abandon
  deriving DecidableEq, Repr

/-- An entry of the link request list (R96); `live` while the transaction that brought it goes on. -/
structure LinkReq where
  slot : Nat
  seq : Byte
  kind : LinkKind
  live : Bool
  deriving DecidableEq, Repr

/-- A transaction in progress (R91, R94). `dead`: served with FFh and no command (R111). -/
structure Transaction where
  dead : Bool
  byteTime : Nat
  bitPos : Nat
  command : Option Byte
  status : Byte
  sending : Option Byte
  received : List Byte
  frame : List Byte
  frameSlot : Option SlotNo
  frameSeq : Byte
  delivery : Delivery
  deriving DecidableEq, Repr

/-- The tender link interface (R94, R109). `handed`: the head request has been handed to the order unit.
`examine`: a second event not yet examined. `sent` is the model's record of the bytes clocked out on TDO since TSEL last
fell. -/
structure TenderLink where
  shift : Option Transaction
  counter : Byte
  timeout : Nat
  requests : List LinkReq
  handed : Bool
  lastRejected : Bool
  quiet : Nat
  quietRaised : Bool
  examine : Bool
  sent : List Byte
  deriving DecidableEq, Repr

/-! ### The print engine -/

/-- Side states (R119). -/
inductive SideState
  | idle | streaming | faulted | offline
  deriving DecidableEq, Repr

/-- Fault causes (R119). -/
inductive FaultCause
  | none | paperOut | jam | coverOpen | busyLimit
  deriving DecidableEq, Repr

/-- The phases of a staging buffer (R119). -/
inductive Stage
  | empty | filling | ready | exchange | held
  deriving DecidableEq, Repr

/-- Block kinds of the printer link (R126). -/
inductive BlockKind
  | data | cut | status
  deriving DecidableEq, Repr

/-- A printer side (R119). The stream position is the body length once read, the spool offset, the strips
placed and the word in hand with its spool word number. -/
structure Side where
  state : SideState
  cause : FaultCause
  paperLow : Bool
  busy : Nat
  job : Option SlotNo
  reprint : Nat
  bodyLen : Option Nat
  offset : Nat
  placed : Nat
  word : Option (Nat × Word)
  buf : List Byte
  kind : BlockKind
  stage : Stage
  pollDue : Bool
  deriving DecidableEq, Repr

/-- An exchange in progress on the printer link (R125); `discard` when its answer will be discarded (R134). -/
structure Exchange where
  printer : Printer
  kind : BlockKind
  discard : Bool
  deriving DecidableEq, Repr

/-- The print engine (R116 to R127). `sent` is the model's record of the bytes of the last block sent. -/
structure PrintEngine where
  serial : BitVec 32
  exhausted : Bool
  queues : Vector (List SlotNo) 2
  preferred : Vector Printer 6
  sides : Vector Side 2
  reader : List Printer
  lastServed : Printer
  exchange : Option Exchange
  sent : List Byte
  deriving DecidableEq, Repr

/-! ### The voucher directory -/

/-- Voucher states (R135). -/
inductive VoucherState
  | free | reserved | issued | redeemed
  deriving DecidableEq, Repr

/-- A voucher directory entry (R135). A tag of 0000h is an absent one; a kept entry's slot is the cell's
(R149), so it may be 31, none. -/
structure Voucher where
  state : VoucherState
  item : Nat
  showNo : ShowNo
  slot : Nat
  tag : Word
  expiry : Nat
  redemption : Option (Lane × Nat)
  deriving DecidableEq, Repr

/-- The voucher directory (R135, R138, R141); its four counts are computed from the entries. -/
structure Directory where
  entries : Vector Voucher 256
  free : List VoucherNo
  tagGen : Word
  deriving DecidableEq, Repr

/-! ### Attention, log, setup, sweep -/

/-- One lane's flags, mask and refusal record (R151); `line` is the level its ATN was last brought to. -/
structure Attention where
  flags : Word
  mask : Word
  count : Nat
  addr : Addr
  reason : Option Reason
  line : Bool
  deriving DecidableEq, Repr

/-- The log writer (R161). -/
structure LogWriter where
  capacity : Nat
  write : Nat
  take : Nat
  used : Nat
  reserved : Nat
  deriving DecidableEq, Repr

/-- Log entry kinds (R164). -/
inductive LogKind
  | setupAccepted | approved | declined | cancelled | abandoned | timedOut | lateResult | reprint
  | redeemed | refund | queryResolved | vouchersRetired
  deriving DecidableEq, Repr

/-- A log entry before its time is known (R164). Slot and show are 31 for none. -/
structure Draft where
  kind : LogKind
  detail : Nat
  lane : Nat
  slot : Nat
  showNo : Nat
  value : Nat
  text : Vector Word 3
  deriving DecidableEq, Repr

/-- Part states (R167). -/
inductive PartState
  | transparent | checking | sweeping | running
  deriving DecidableEq, Repr

/-- Reset causes (R167). -/
inductive ResetCause
  | powerOn | resetPin | withdraw
  deriving DecidableEq, Repr

/-- The directory work of an acceptance (R176): none, asked of the directory (with the keep vouchers
option), going on, ended. -/
inductive DirectoryWork
  | none | asked (keep : Bool) | running | ended
  deriving DecidableEq, Repr

/-- The setup controller (R167, R170, R174, R176). -/
structure Setup where
  part : PartState
  cause : ResetCause
  cursor : Nat
  header : Vector (Option Word) 31
  result : Word
  tagSeed : Word
  keep : Bool
  headerShows : List ShowNo
  sweepsLeft : List ShowNo
  work : DirectoryWork
  deriving DecidableEq, Repr

/-- The sweep in progress (R12): its show, the next seat index, whether it made a QUERY. -/
structure SweepPos where
  showNo : ShowNo
  seat : Nat
  query : Bool
  deriving DecidableEq, Repr

/-- The sweep engine (R12). -/
structure Sweep where
  requests : List ShowNo
  current : Option SweepPos
  deriving DecidableEq, Repr

/-! ### Decisions in progress -/

/-- The words that a block writes from its own state (10.2): the word placed is the block's present value. -/
inductive PartWord
  | partState | setupResult
  | mirror (k : Fin 5)
  | voucherCount (k : Fin 4)
  | printer (p : Printer) (high : Bool)
  | logIndex (k : Fin 4)
  | showState (sh : ShowNo)
  | laneState (n : Lane)
  | earliest (n : Lane) (k : Fin 3)
  | flags (n : Lane) | mask (n : Lane) | cause (n : Lane)
  | refusalHigh (n : Lane) | refusalLow (n : Lane) | refusalReason (n : Lane) | refusalCount (n : Lane)
  deriving DecidableEq, Repr

/-- What is left to do of a decision, in order: placements, requests to other blocks, and the block's own
changes that come after them. A block with acts left is inside a decision (R21, R63, R69, R139, R152). -/
inductive Act
  -- placements in the update queue and the end of a lane's write
  | place (a : Addr) (v : Word)
  | sync (w : PartWord)
  | finish (n : Lane)
  | line (n : Lane)
  -- requests to the attention unit
  | flag (n : Lane) (f : Flag)
  | showChange
  | refusal (n : Lane) (a : Addr) (r : Reason)
  -- the log writer
  | logAdvance (fromReserved : Bool)
  | handBack (k : Nat)
  | writeReserved (d : Draft)
  -- seats
  | seatRead (n : Lane)
  | editLog (n : Lane) (a : Addr) (cell : Word) (d : Draft)
  | releaseDone (n : Lane)
  | holdFor (sh : ShowNo)
  -- the asker of the voucher directory waits with its decision (R139)
  | await (b : Block)
  -- the show table
  | evaluateStart
  | evaluate (shs : List ShowNo) (minute : Nat)
  | retireLog (n : Lane) (sh : ShowNo)
  | retireSlots (n : Lane) (sh : ShowNo)
  | retireHolds (n : Lane) (sh : ShowNo)
  | retireVouchers (sh : ShowNo)
  | retireDone (sh : ShowNo)
  | sweepAsk (sh : ShowNo)
  | sweepDone (sh : ShowNo)
  -- the order unit
  | closeHolds (sl : SlotNo)
  | closeDirectory (sl : SlotNo)
  | closeLog (sl : SlotNo)
  | refuseSlot (sl : SlotNo) (r : Reason)
  | pend (sl : SlotNo)
  | closeReserve (sl : SlotNo) (classes : List Nat)
  | sale (sl : SlotNo)
  | returnSeats (sl : SlotNo)
  | drop (sl : SlotNo)
  | issue (sl : SlotNo)
  | returnVouchers (sl : SlotNo)
  | approve (sl : SlotNo) (auth : Auth) (before : Shadow)
  | endSlot (sl : SlotNo) (st : SlotState) (keep : Nat) (before : Shadow)
  | emptySlot (sl : SlotNo)
  | handoff (sl : SlotNo) (c : Choice)
  | reprintLog (n : Lane) (sl : SlotNo) (c : Choice) (a : Addr) (v : Word)
  | commit (sl : SlotNo) (s : Shadow)
  | lateEnd (sl : SlotNo) (l : Late)
  | deadlines (run : RunSecond)
  | teardownDone (n : Lane)
  -- the lane interface
  | lapseAsk (n : Lane)
  | fetched (taken : Bool)
  | verdict (v : Verdict)
  -- the voucher directory
  | redeemLog (n : Lane) (i : VoucherNo) (minute : Nat)
  | clearWords (k : Nat)
  | rebuild (k : Nat) (got : List Word)
  | directoryEnd
  -- the printer sides
  | askStart (p : Printer)
  | askProgress (p : Printer) (taken : Option (Nat × Nat)) (first : Option (BitVec 32))
  | askDone (p : Printer)
  | askHalt (sl : SlotNo)
  | sideIdle (p : Printer)
  | fill (p : Printer)
  -- the setup controller
  | setPart (st : PartState)
  | initLoad
  | priceRead (k : Nat)
  | initLog
  | initSlots (k : Nat)
  | initLanes
  | showRead (k : Nat) (got : List Word)
  | clockStart
  | enterSweeping
  | withdrawAsk (n : Lane)
  | withdraw (b : Block)
  deriving DecidableEq, Repr

/-- A block's decision in progress, empty when the block is free; `parts` is the pace it was given. -/
structure Task where
  acts : List Act
  parts : Bool
  deriving DecidableEq, Repr

/-! ### The part and the machine -/

/-- The LS6 itself. -/
structure Part where
  resetLow : Bool
  lanes : Vector LaneIf 6
  windows : Option Windows
  rotation : List Requester
  queue : List (Addr × Word)
  waiters : List Block
  work : Vector Task 19
  clock : Clock
  shows : Vector ShowEntry 16
  hold : HoldUnit
  order : OrderUnit
  tender : TenderLink
  print : PrintEngine
  directory : Directory
  attention : Vector Attention 6
  log : LogWriter
  setup : Setup
  sweep : Sweep
  deriving DecidableEq, Repr

/-- The machine: the commands that wait, foyer memory, the part, and the count of power-ons from which
`Config.powerOnCells` is read. -/
structure State where
  pending : List Instr
  mem : Memory
  powerOns : Nat
  part : Part
  deriving DecidableEq, Repr

/-! ### The values at power-on and RESET -/

/-- R42, R49, R151: a lane interface at reset. -/
def LaneIf.initial : LaneIf :=
  { role := .none, lapsed := false, quiet := false, watch := ⟨false, false, 0, 0⟩,
    releaseDue := false, teardownDue := false, access := none, dout := none }

/-- R60. -/
def rotationInitial : List Requester :=
  [.lane 0, .lane 1, .lane 2, .lane 3, .lane 4, .lane 5, .drain, .printReader, .sweepReader]

/-- R1. -/
def Clock.initial : Clock := ⟨0, 0, 0, 0, 0, 0, false, none⟩

/-- R8. -/
def ShowEntry.initial : ShowEntry :=
  { state := .vacant, cursor := 0, cut := false, fault := false, last := .none,
    words := Vector.replicate 7 none, start := 0, cutoff := 0, expiry := 0 }

/-- R20. -/
def HoldUnit.initial : HoldUnit :=
  { holds := [], duration := 0, warnLead := 0, quota := Vector.replicate 6 0, round := false, darkDue := [] }

/-- R67: an EMPTY slot with every other field cleared. -/
def Shadow.initial : Shadow :=
  { state := .empty, owner := none, cursor := 0, words := Vector.replicate 15 none, reason := none,
    amount := none, vouchers := [], seq := none, deadline := none, auth := none, offset := 0, strips := 0,
    firstSerial := none, reprints := 0, late := none, reserved := 0 }

/-- R56, R67, R83, R95. -/
def OrderUnit.initial : OrderUnit :=
  { slots := Vector.replicate 24 Shadow.initial, payQueue := [], window := [],
    prices := Vector.replicate 24 0, due := [] }

/-- R94. -/
def TenderLink.initial : TenderLink :=
  { shift := none, counter := 0, timeout := 0, requests := [], handed := false, lastRejected := false,
    quiet := 0, quietRaised := false, examine := false, sent := [] }

/-- R119. -/
def Side.initial : Side :=
  { state := .idle, cause := .none, paperLow := false, busy := 0, job := none, reprint := 0, bodyLen := none,
    offset := 0, placed := 0, word := none, buf := [], kind := .data, stage := .empty, pollDue := false }

/-- R116, R117, R118, R119, R127. -/
def PrintEngine.initial : PrintEngine :=
  { serial := 0, exhausted := false, queues := Vector.replicate 2 [], preferred := Vector.replicate 6 0,
    sides := Vector.replicate 2 Side.initial, reader := [], lastServed := 1, exchange := none, sent := [] }

/-- R135: a FREE entry with its other fields cleared. -/
def Voucher.initial : Voucher := ⟨.free, 0, 0, 31, 0, 0, none⟩

/-- R135. -/
def Directory.initial : Directory :=
  { entries := Vector.replicate 256 Voucher.initial, free := List.finRange 256, tagGen := 0 }

/-- R151. -/
def Attention.initial : Attention := ⟨0, 0, 0, 0, none, false⟩

/-- R161. -/
def LogWriter.initial : LogWriter := ⟨0, 0, 0, 0, 0⟩

/-- R167, R168. -/
def Setup.initial (cause : ResetCause) : Setup :=
  { part := .transparent, cause, cursor := 0, header := Vector.replicate 31 none, result := 0, tagSeed := 0,
    keep := false, headerShows := [], sweepsLeft := [], work := .none }

/-- The part at the values of R168, with no pin event going on. -/
def Part.initial (cause : ResetCause) : Part :=
  { resetLow := false, lanes := Vector.replicate 6 LaneIf.initial, windows := none, rotation := rotationInitial,
    queue := [], waiters := [], work := Vector.replicate 19 ⟨[], false⟩, clock := Clock.initial,
    shows := Vector.replicate 16 ShowEntry.initial, hold := HoldUnit.initial, order := OrderUnit.initial,
    tender := TenderLink.initial, print := PrintEngine.initial, directory := Directory.initial,
    attention := Vector.replicate 6 Attention.initial, log := LogWriter.initial, setup := Setup.initial cause,
    sweep := ⟨[], none⟩ }

/-- The machine right after power-on (R168, R169), foyer memory reading 0000h (log 1). -/
def State.reset : State :=
  { pending := [], mem := [], powerOns := 0, part := Part.initial .powerOn }

end Sys2Proof.Machine
end

