-- ==== Sys2Proof/Machine/Ops.lean ====
section
/-! DEFINITION. The named operations over foyer memory, the update queue, the blocks' decisions, the address
map and the fields of the part. -/

namespace Sys2Proof.Machine

/-! ### Foyer memory -/

/-- The word that foyer memory holds at an address; an unlisted word reads 0000h (log 1). -/
def Memory.read : Memory → Nat → Word
  | [], _ => 0
  | (b, w) :: m, a => if a = b then w else Memory.read m a

/-- Writes a word, keeping the canonical form: rising addresses, no cell of 0000h. -/
def Memory.write : Memory → Nat → Word → Memory
  | [], a, v => if v = 0 then [] else [(a, v)]
  | (b, w) :: m, a, v =>
    if a < b then (if v = 0 then (b, w) :: m else (a, v) :: (b, w) :: m)
    else if a = b then (if v = 0 then m else (a, v) :: m)
    else (b, w) :: Memory.write m a v

/-- The canonical form: addresses strictly rising and below 2^18, no entry equal to what an unlisted address
reads as. -/
abbrev Memory.wf (m : Memory) : Prop :=
  m.Pairwise (fun x y => x.1 < y.1) ∧ ∀ c ∈ m, c.2 ≠ 0 ∧ c.1 < 262144

/-- The memory that holds the given cells, a later cell winning. -/
def Memory.ofCells (cells : List (Addr × Word)) : Memory :=
  cells.foldl (fun m c => Memory.write m c.1.toNat c.2) []

/-! ### Fields of the part -/

/-- Replaces one element of a vector. -/
def upd {α : Type} {n : Nat} (v : Vector α n) (i : Fin n) (f : α → α) : Vector α n := v.set i (f v[i])

/-- The lane interface of lane `n`. -/
def Part.lane (p : Part) (n : Lane) : LaneIf := p.lanes[n]
/-- Changes a lane interface. -/
def Part.setLane (p : Part) (n : Lane) (f : LaneIf → LaneIf) : Part := { p with lanes := upd p.lanes n f }
/-- A show table entry. -/
def Part.showAt (p : Part) (sh : ShowNo) : ShowEntry := p.shows[sh]
/-- Changes a show table entry. -/
def Part.setShow (p : Part) (sh : ShowNo) (f : ShowEntry → ShowEntry) : Part :=
  { p with shows := upd p.shows sh f }
/-- A slot shadow. -/
def Part.slot (p : Part) (sl : SlotNo) : Shadow := p.order.slots[sl]
/-- Changes a slot shadow. -/
def Part.setSlot (p : Part) (sl : SlotNo) (f : Shadow → Shadow) : Part :=
  { p with order := { p.order with slots := upd p.order.slots sl f } }
/-- A printer side. -/
def Part.sideAt (p : Part) (d : Printer) : Side := p.print.sides[d]
/-- Changes a printer side. -/
def Part.setSide (p : Part) (d : Printer) (f : Side → Side) : Part :=
  { p with print := { p.print with sides := upd p.print.sides d f } }
/-- A printer queue. -/
def Part.printQueue (p : Part) (d : Printer) : List SlotNo := p.print.queues[d]
/-- Changes a printer queue. -/
def Part.setPrintQueue (p : Part) (d : Printer) (f : List SlotNo → List SlotNo) : Part :=
  { p with print := { p.print with queues := upd p.print.queues d f } }
/-- A voucher directory entry. -/
def Part.voucher (p : Part) (i : VoucherNo) : Voucher := p.directory.entries[i]
/-- Changes a voucher directory entry. -/
def Part.setVoucher (p : Part) (i : VoucherNo) (f : Voucher → Voucher) : Part :=
  { p with directory := { p.directory with entries := upd p.directory.entries i f } }
/-- A lane's flags, mask and refusal record. -/
def Part.att (p : Part) (n : Lane) : Attention := p.attention[n]
/-- Changes a lane's flags, mask and refusal record. -/
def Part.setAtt (p : Part) (n : Lane) (f : Attention → Attention) : Part :=
  { p with attention := upd p.attention n f }
/-- The part state (R167). -/
def Part.mode (p : Part) : PartState := p.setup.part
/-- SWEEPING or RUNNING: the header is in force. -/
def Part.accepted (p : Part) : Bool := p.mode == .sweeping || p.mode == .running
/-- WAITn is asserted from the start of an access until it completes (R49). -/
def Part.wait (p : Part) (n : Lane) : Bool := (p.lane n).access.isSome
/-- ATNn: in TRANSPARENT and CHECKING every line is inactive (R157). -/
def Part.atn (p : Part) (n : Lane) : Bool := p.accepted && (p.att n).line

/-! ### Blocks and their decisions -/

/-- Where a block's task stands in `Part.work`. -/
def blockIx : Block → Fin 19
  | .clock => 0 | .shows => 1 | .hold => 2 | .order => 3 | .directory => 4 | .log => 5 | .attention => 6
  | .print => 7 | .sweep => 8 | .setup => 9 | .tender => 10
  | .side p => if p = 0 then 11 else 12
  | .lane n => ⟨13 + n.val, by omega⟩

/-- A block's task. -/
def Part.task (p : Part) (b : Block) : Task := p.work[blockIx b]
/-- Sets what is left of a block's decision. -/
def Part.setTask (p : Part) (b : Block) (t : Task) : Part := { p with work := upd p.work (blockIx b) (fun _ => t) }
/-- Is the block inside a decision? Then it takes no further request (R21, R69, R139, R152, R162). -/
def Part.busy (p : Part) (b : Block) : Bool := !(p.task b).acts.isEmpty
/-- The free block takes a request: its decision is these acts. -/
def Part.start (p : Part) (b : Block) (acts : List Act) : Part := p.setTask b ⟨acts, false⟩
/-- As `start`, at a pace. -/
def Part.startAt (p : Part) (b : Block) (pace : Pace) (acts : List Act) : Part :=
  p.setTask b ⟨acts, pace == .parts⟩
/-- Hands a block acts that it carries out after what it is doing now. -/
def Part.post (p : Part) (b : Block) (acts : List Act) : Part :=
  p.setTask b ⟨(p.task b).acts ++ acts, p.busy b && (p.task b).parts⟩

/-- A block whose next act waits: placements and requests are decided again in the order in which they first
waited (R63). -/
def Part.waits (p : Part) (b : Block) : Part :=
  if p.waiters.contains b then p else { p with waiters := p.waiters ++ [b] }

/-! ### The update queue (R62 to R65) -/

/-- The queued value of a word, if the queue holds an entry for it. -/
def queueFind (q : List (Addr × Word)) (a : Addr) : Option Word :=
  match q with
  | [] => none
  | (b, w) :: r => if b = a then some w else queueFind r a

/-- Replaces the value of the word's entry, which keeps its position: coalescing (R63). -/
def queueReplace (q : List (Addr × Word)) (a : Addr) (v : Word) : List (Addr × Word) :=
  q.map (fun e => if e.1 = a then (a, v) else e)

/-- A placement (R63): coalesced, appended, or none when it waits. -/
def queuePlace (q : List (Addr × Word)) (a : Addr) (v : Word) : Option (List (Addr × Word)) :=
  if (queueFind q a).isSome then some (queueReplace q a v)
  else if q.length < 16 then some (q ++ [(a, v)])
  else none

/-- The decided value of a word: queued, or already in memory (R50). -/
def Part.decidedValue (p : Part) (m : Memory) (a : Addr) : Word :=
  (queueFind p.queue a).getD (Memory.read m a.toNat)

/-! ### Addresses (10.2, 10.3) -/

/-- A word address. -/
def addrOf (n : Nat) : Addr := BitVec.ofNat 18 n
/-- The base of a window, in words; the classifier's windows are cleared outside an acceptance. -/
def Part.base (p : Part) (f : Windows → Nat) : Nat := ((p.windows.map f).getD 0) * 256
/-- Word `k` of the block of lane `n`. -/
def laneAddr (n : Lane) (k : Nat) : Addr := addrOf (0x100 + 16 * n.val + k)
/-- Word `k` of the record of show `sh`. -/
def showAddr (sh : ShowNo) (k : Nat) : Addr := addrOf (0x40 + 8 * sh.val + k)
/-- Word `k` of slot `sl` in the ORDER window. -/
def Part.orderAddr (p : Part) (sl : SlotNo) (k : Nat) : Addr := addrOf (p.base (·.orderBase) + 32 * sl.val + k)
/-- Spool word `k` of slot `sl`. -/
def Part.spoolAddr (p : Part) (sl : SlotNo) (k : Nat) : Addr := addrOf (p.base (·.spoolBase) + 256 * sl.val + k)
/-- Word `k` of the cell of voucher `i`. -/
def Part.voucherAddr (p : Part) (i : VoucherNo) (k : Nat) : Addr := addrOf (p.base (·.voucherBase) + 4 * i.val + k)
/-- Word `k` of log entry `e`. -/
def Part.logAddr (p : Part) (e k : Nat) : Addr := addrOf (p.base (·.logBase) + 8 * e + k)

/-- A captured record word of a show, 0 where it is not captured. -/
def ShowEntry.word (e : ShowEntry) (k : Fin 7) : Nat := ((e.words[k]).getD 0).toNat
/-- The seat cell of a seat of a show (R8). -/
def Part.seatAddr (p : Part) (sh : ShowNo) (i : Nat) : Addr :=
  addrOf (p.base (·.seatBase) + (p.showAt sh).word 0 + i)
/-- A show is active in every state except VACANT (R8). -/
def ShowEntry.active (e : ShowEntry) : Bool := e.state != .vacant

/-- The active show in whose map an address lies, with the seat index (R8, R24). -/
def Part.seatOf (p : Part) (a : Addr) : Option (ShowNo × Nat) :=
  (List.finRange 16).findSome? fun sh =>
    let e := p.showAt sh
    let lo := p.base (·.seatBase) + e.word 0
    if e.active && decide (lo ≤ a.toNat) && decide (a.toNat < lo + e.word 1) then some (sh, a.toNat - lo) else none

/-- The regions of the address space (R53), with the unit and the word that the classifier names. -/
inductive Region
  | header (k : Nat) | status (k : Nat) | showRecord (sh : ShowNo) (k : Nat) | price (k : Fin 24) | unassigned
  | laneBlock (n : Lane) (k : Nat) | seat | order (sl : SlotNo) (k : Nat) | spool (sl : SlotNo) (k : Nat)
  | voucher (i : VoucherNo) (k : Nat) | log (e k : Nat) | outside
  deriving DecidableEq, Repr

/-- Does the address lie in the window of `size` words at `base` units? Then its word number. -/
def inWindow (a base size : Nat) : Option Nat :=
  if base * 256 ≤ a ∧ a < base * 256 + size then some (a - base * 256) else none

/-- The region of an address in the header-placed windows (R53). -/
def Windows.region (w : Windows) (a : Nat) : Region :=
  if (inWindow a w.seatBase (w.seatSize * 256)).isSome then .seat
  else match inWindow a w.orderBase 768 with
  | some k => .order (Fin.ofNat 24 (k / 32)) (k % 32)
  | none => match inWindow a w.spoolBase 6144 with
    | some k => .spool (Fin.ofNat 24 (k / 256)) (k % 256)
    | none => match inWindow a w.voucherBase 1024 with
      | some k => .voucher (Fin.ofNat 256 (k / 4)) (k % 4)
      | none => match inWindow a w.logBase (2 ^ w.logExp * 8) with
        | some k => .log (k / 8) (k % 8)
        | none => .outside

/-- The region of an address (R53): fixed by the address alone. -/
def Part.region (p : Part) (a : Addr) : Region :=
  let n := a.toNat
  if n < 0x20 then .header n
  else if n < 0x40 then .status n
  else if n < 0xC0 then .showRecord (Fin.ofNat 16 ((n - 0x40) / 8)) ((n - 0x40) % 8)
  else if n < 0xD8 then .price (Fin.ofNat 24 (n - 0xC0))
  else if n < 0x100 then .unassigned
  else if n < 0x160 then .laneBlock (Fin.ofNat 6 ((n - 0x100) / 16)) ((n - 0x100) % 16)
  else match p.windows with
    | some w => w.region n
    | none => .outside

/-! ### Time -/

/-- The foyer minute number (R2). -/
def Clock.minuteNo (c : Clock) : Nat := c.day.toNat * 1440 + c.minute
/-- Has a stored run-second value been reached (R3)? -/
def reached (run t : RunSecond) : Bool := decide ((run - t).toNat < 8388608)
/-- The run-second value a number of seconds ahead (R22, R99). -/
def Clock.ahead (c : Clock) (seconds : Nat) : RunSecond := c.run + BitVec.ofNat 24 seconds

/-! ### Lane accesses -/

/-- The write that a lane presents and that no block has decided yet. In CHECKING (R59) and while RESET is
low (R169) it is held, so nothing is there to decide, be it one of lanes 1 to 5 to 01Fh that was presented in
TRANSPARENT and not yet taken (R171, log 40); a write that passes already is no block's to decide. -/
def Part.laneWrite (p : Part) (n : Lane) : Option (Addr × Word) :=
  if p.resetLow || p.mode == .checking then none
  else match (p.lane n).access with
    | some ⟨a, some v, false, false⟩ => some (a, v)
    | _ => none

/-- The read that a lane presents (R50); reads are answered in CHECKING too (R59). -/
def Part.laneRead (p : Part) (n : Lane) : Option Addr :=
  if p.resetLow then none
  else match (p.lane n).access with
    | some ⟨a, none, _, _⟩ => some a
    | _ => none

/-- The owning block takes or refuses the lane's write. A write of lane 0 taken or refused makes the pending
day absent (R5). -/
def Part.markDecided (p : Part) (n : Lane) : Part :=
  let q := p.setLane n fun l => { l with access := l.access.map fun x => { x with decided := true } }
  if n = 0 then { q with clock := { q.clock with pendingDay := none } } else q

/-- The lane's access completes and WAITn is released (R49). -/
def Part.finish (p : Part) (n : Lane) : Part := p.setLane n fun l => { l with access := none }

/-- A lane's read completes with its data (R49, R50). -/
def Part.finishRead (p : Part) (n : Lane) (v : Word) : Part :=
  p.setLane n fun l => { l with access := none, dout := some v }

/-- The lane interface hands a refusal to the attention unit (R159); the deciding block goes on. -/
def Part.handRefusal (p : Part) (n : Lane) (r : Reason) : Part :=
  let a := (((p.lane n).access.map (·.addr)).getD 0)
  (p.markDecided n).post (.lane n) [.refusal n a r]

end Sys2Proof.Machine
end

