-- ==== Sys2Proof/Machine/Operands.lean ====
section
/-! DEFINITION. The memory-visible formats: how written words are decoded (R180) and how the part's words are
packed (R181, 10_memory_visible_formats_and_signals.md). -/

namespace Sys2Proof.Machine

/-- The number in `len` bits of a word from bit `lo` up. -/
def bits (w : Word) (lo len : Nat) : Nat := w.toNat / 2 ^ lo % 2 ^ len
/-- A word from a number. -/
def wordOf (n : Nat) : Word := BitVec.ofNat 16 n
/-- A set bit at a position. -/
def bit (b : Bool) (pos : Nat) : Nat := if b then 2 ^ pos else 0
/-- The high 16 bits of a two-word quantity (R181). -/
def hiWord (n : Nat) : Word := wordOf (n / 65536)
/-- The low 16 bits of a two-word quantity (R181). -/
def loWord (n : Nat) : Word := wordOf (n % 65536)
/-- Two bytes as a word, the first in the high byte (00_scope.md, Links). -/
def bytesWord (hi lo : Byte) : Word := wordOf (hi.toNat * 256 + lo.toNat)
/-- The high byte of a word. -/
def hiByte (w : Word) : Byte := BitVec.ofNat 8 (w.toNat / 256)
/-- The low byte of a word. -/
def loByte (w : Word) : Byte := BitVec.ofNat 8 (w.toNat % 256)

/-! ### Code tables (10.4) -/

/-- Codes of the refusal reasons. -/
def Reason.code : Reason → Nat
  | .taken => 0x01 | .notYours => 0x02 | .showShut => 0x03 | .noSeat => 0x04 | .seatState => 0x05
  | .quota => 0x06 | .holdsFull => 0x07 | .renewLimit => 0x08 | .badRequest => 0x09 | .role => 0x0A
  | .lapsed => 0x0B | .sweeping => 0x0C | .sequence => 0x0D | .slotState => 0x0E | .slotOwner => 0x0F
  | .holdMissing => 0x10 | .orderForm => 0x11 | .noVoucher => 0x12 | .logFull => 0x13 | .badTag => 0x14
  | .voucherState => 0x15 | .alreadyRedeemed => 0x16 | .readOnly => 0x17 | .busy => 0x18
  | .showForm => 0x19 | .showBusy => 0x1A | .printLimit => 0x1B | .watchSet => 0x1C | .badTake => 0x1D
  | .expired => 0x1F

/-- Code of a reason that may be none: 00h none. -/
def reasonCode (r : Option Reason) : Nat := (r.map Reason.code).getD 0

/-- Codes of the slot states. -/
def SlotState.code : SlotState → Nat
  | .empty => 0 | .assembling => 1 | .refused => 2 | .queued => 3 | .tendering => 4 | .approved => 5
  | .printing => 6 | .printHalted => 7 | .done => 8 | .declined => 9 | .cancelled => 10 | .abandoned => 11
  | .timedOut => 12 | .void => 13

/-- Codes of the log kinds. -/
def LogKind.code : LogKind → Nat
  | .setupAccepted => 1 | .approved => 2 | .declined => 3 | .cancelled => 4 | .abandoned => 5 | .timedOut => 6
  | .lateResult => 7 | .reprint => 8 | .redeemed => 9 | .refund => 10 | .queryResolved => 11
  | .vouchersRetired => 12

/-! ### Seat cells (10.3) -/

/-- The state field's codes. -/
def cellFree : Nat := 0
def cellHeld : Nat := 1
def cellPending : Nat := 2
def cellSold : Nat := 3
def cellBlocked : Nat := 4
def cellQuery : Nat := 5

/-- The fields of a seat cell or of a value written to one; codes 6 and 7 of the state are undefined. -/
structure Cell where
  state : Nat
  holder : Nat
  slot : Nat
  cls : Nat
  edit : Bool
  deriving DecidableEq, Repr

/-- Reads a seat cell's fields. -/
def Cell.ofWord (w : Word) : Cell := ⟨bits w 0 3, bits w 3 3, bits w 6 5, bits w 11 3, bits w 15 1 == 1⟩

/-- A seat cell as the part writes it: edit marker clear, bit 14 clear (R19, R181). -/
def cellWord (state holder slot cls : Nat) : Word := wordOf (state + holder * 8 + slot * 64 + cls * 2048)

/-- A FREE cell of a class. -/
def freeCell (cls : Nat) : Word := cellWord cellFree 0 31 cls

/-! ### Commands and requests that lanes write (R180) -/

/-- The commands of show record word 7. -/
inductive ShowCommand
  | openShow | cut | retire | undefined
  deriving DecidableEq, Repr

/-- Decodes show record word 7 as written. -/
def ShowCommand.ofWord (w : Word) : ShowCommand :=
  if w = 0x8001 then .openShow else if w = 0x8002 then .cut else if w = 0x8003 then .retire else .undefined

/-- The commands of order record word 15. -/
inductive Control
  | close | cancel | release | reprint (c : Choice) | forceDone | undefined
  deriving DecidableEq, Repr

/-- Decodes a control word. -/
def Control.ofWord (w : Word) : Control :=
  if w = 0x0100 then .close
  else if w = 0x0200 then .cancel
  else if w = 0x0300 then .release
  else if bits w 8 8 = 4 then
    match bits w 0 2 with
    | 0 => .reprint .preferred
    | 1 => .reprint (.printer 0)
    | 2 => .reprint (.printer 1)
    | _ => .undefined
  else if w = 0x0500 then .forceDone
  else .undefined

/-- The commands of a heartbeat word; `enable none` has an invalid mode or interval. -/
inductive Heartbeat
  | enable (watch : Option (Bool × Fin 4)) | refresh | rejoin | undefined
  deriving DecidableEq, Repr

/-- Decodes a heartbeat word: for ENABLE, the mode (LAPSE or not) and the interval code. -/
def Heartbeat.ofWord (w : Word) : Heartbeat :=
  match bits w 12 4 with
  | 1 =>
    let mode := bits w 4 2
    if (mode = 1 ∨ mode = 2) ∧ bits w 0 3 < 4 then .enable (some (mode == 2, Fin.ofNat 4 (bits w 0 3)))
    else .enable none
  | 2 => .refresh
  | 3 => .rejoin
  | _ => .undefined

/-- ACCEPT, header word 1Fh. -/
def wordAccept : Word := 0xA5C3
/-- WITHDRAW, header word 1Fh. -/
def wordWithdraw : Word := 0x5A3C

/-- The seconds of a watch interval's code (10.2). -/
def intervalSeconds (i : Fin 4) : Nat := 4 * 2 ^ i.val

/-! ### Words of the lane blocks and the status area (10.2) -/

/-- The position of a flag. -/
def Flag.pos : Flag → Nat
  | .orderEnd => 0 | .tenderStart => 1 | .holdWarn => 2 | .holdLost => 3 | .refused => 4 | .printFault => 5
  | .showChange => 6 | .lapsed => 7 | .logHalf => 8 | .logFull => 9 | .lateResult => 10 | .querySeats => 11
  | .tenderQuiet => 12 | .laneQuiet => 13 | .printerDown => 14 | .setupState => 15

/-- The part state word. -/
def partStateWord (st : PartState) (c : ResetCause) : Word :=
  let a := match st with | .transparent => 0 | .checking => 1 | .sweeping => 2 | .running => 3
  let b := match c with | .powerOn => 0 | .resetPin => 1 | .withdraw => 2
  wordOf (a + b * 16)

/-- The reset cause as the log detail of SETUP_ACCEPTED. -/
def ResetCause.code : ResetCause → Nat
  | .powerOn => 0 | .resetPin => 1 | .withdraw => 2

/-- The setup result word of a refused acceptance. -/
def setupFormWord (sub failing : Nat) : Word := wordOf (0x8000 + sub * 256 + failing)

/-- The show state word; bit 15 always 0. -/
def showStateWord (e : ShowEntry) : Word :=
  let st := match e.state with | .vacant => 0 | .opening => 1 | .opened => 2 | .cutoff => 3 | .dark => 4
  let last := match e.last with | .none => 0 | .opened => 1 | .retired => 2
  wordOf (st + bit e.cut 4 + bit e.fault 5 + last * 256)

/-- The lane state word. -/
def laneStateWord (l : LaneIf) (count quota : Nat) : Word :=
  wordOf (bit l.lapsed 0 + bit l.watch.on 1 + bit l.watch.lapseMode 2 + l.watch.interval.val * 8 + bit l.quiet 5
    + count * 64 + quota * 2048)

/-- The printer state word, 32 bits: high word then low word. -/
def printerStateWords (d : Side) (exhausted : Bool) (queueLength : Nat) : Word × Word :=
  let st := match d.state with | .idle => 0 | .streaming => 1 | .faulted => 2 | .offline => 3
  let c := match d.cause with | .none => 0 | .paperOut => 1 | .jam => 2 | .coverOpen => 3 | .busyLimit => 4
  (wordOf (st + c * 4 + bit d.paperLow 5 + bit exhausted 6 + d.busy * 256),
   wordOf (queueLength + ((d.job.map (·.val)).getD 31) * 256))

/-! ### Slot status words (10.3) -/

/-- The six bytes of an auth code as three words. -/
def authWords (a : Auth) : Vector Word 3 :=
  #v[bytesWord a[0] a[1], bytesWord a[2] a[3], bytesWord a[4] a[5]]

/-- Byte `k` of the reserved voucher indices, 00h where there is none. -/
def voucherByte (vs : List VoucherNo) (k : Nat) : Byte := BitVec.ofNat 8 ((vs[k]?.map (·.val)).getD 0)

/-- Status word 16 + `k` of a slot shadow. -/
def statusWord (s : Shadow) (k : Nat) : Word :=
  match k with
  | 0 =>
    let late := match s.late with | none => 0 | some .approved => 1 | some .declined => 2
    wordOf (s.state.code + ((s.owner.map (·.val)).getD 7) * 16 + s.cursor * 256 + s.reserved * 4096 + late * 16384)
  | 1 => wordOf (reasonCode s.reason + s.reprints * 256 + s.vouchers.length * 1024 + bit s.firstSerial.isSome 15)
  | 2 => (s.amount.map hiWord).getD 0xFFFF
  | 3 => (s.amount.map loWord).getD 0xFFFF
  | 4 => bytesWord (voucherByte s.vouchers 0) (voucherByte s.vouchers 1)
  | 5 => bytesWord (voucherByte s.vouchers 2) (voucherByte s.vouchers 3)
  | 6 => (s.seq.map fun q => wordOf (q.toNat + 256)).getD 0
  | 7 => (s.deadline.map fun d => wordOf (d.toNat / 65536 + 32768)).getD 0
  | 8 => (s.deadline.map fun d => loWord d.toNat).getD 0
  | 9 => (s.auth.map fun a => (authWords a)[0]).getD 0
  | 10 => (s.auth.map fun a => (authWords a)[1]).getD 0
  | 11 => (s.auth.map fun a => (authWords a)[2]).getD 0
  | 12 => wordOf (s.offset + s.strips * 4096)
  | 13 => (s.firstSerial.map fun f => hiWord f.toNat).getD 0
  | 14 => (s.firstSerial.map fun f => loWord f.toNat).getD 0
  | _ => 0

/-! ### Voucher cells (10.3) -/

/-- Word 0 of a voucher cell: a state's code, the item and the show. -/
def voucherWord0 (code item showNo : Nat) : Word := wordOf (code + item * 16 + showNo * 256)

/-- RETIRED, the code that a cell alone can hold. -/
def codeRetired : Nat := 4

/-- Word 2: the slot and the expiry minute of day. -/
def voucherWord2 (slot expiry : Nat) : Word := wordOf (expiry % 1440 + slot * 2048)

/-- Word 3: a redemption record. -/
def redemptionWord (n : Lane) (minute : Nat) : Word := wordOf (minute + n.val * 4096 + 32768)

/-- The FREE values of a voucher cell. -/
def freeVoucherWord (k : Nat) : Word := if k = 2 then 0xFFFF else 0

/-! ### Log entries (10.3) -/

/-- Six spaces, as three words. -/
def spaces : Vector Word 3 := #v[0x2020, 0x2020, 0x2020]
/-- Six spaces, as an auth code. -/
def authSpaces : Auth := #v[0x20, 0x20, 0x20, 0x20, 0x20, 0x20]
/-- The text of an entry that carries a seat index. -/
def seatText (i : Nat) : Vector Word 3 := #v[wordOf i, 0x2020, 0x2020]

/-- The eight words of a log entry at a foyer minute number. -/
def Draft.words (d : Draft) (minute : Nat) : List Word :=
  [wordOf (d.kind.code + d.detail * 16 + d.lane * 256 + d.slot * 2048), wordOf (d.showNo + minute / 65536 * 32),
   hiWord d.value, loWord d.value, d.text[0], d.text[1], d.text[2], loWord minute]

/-! ### Check codes (R98, R115) -/

/-- One step of a shift-register check code: the register, its width's top bit and the data bit. -/
def crcBit (w : Nat) (poly : BitVec w) (r : BitVec w) (b : Bool) : BitVec w :=
  if r.msb != b then (r <<< 1) ^^^ poly else r <<< 1

/-- The bits of a byte, most significant first. -/
def byteBits (b : Byte) : List Bool :=
  [b.getLsbD 7, b.getLsbD 6, b.getLsbD 5, b.getLsbD 4, b.getLsbD 3, b.getLsbD 2, b.getLsbD 1, b.getLsbD 0]

/-- The CRC-8 of link frames and blocks (R98). -/
def crc8 (bs : List Byte) : Byte := (bs.flatMap byteBits).foldl (crcBit 8 0x07) 0x00
/-- The CRC-16 of strips (R115). -/
def crc16 (bs : List Byte) : Word := (bs.flatMap byteBits).foldl (crcBit 16 0x1021) 0xFFFF

/-- A four-byte quantity, high byte first. -/
def bytes4 (n : Nat) : List Byte := [hiByte (hiWord n), loByte (hiWord n), hiByte (loWord n), loByte (loWord n)]
/-- A word as two bytes, high byte first. -/
def bytes2 (w : Word) : List Byte := [hiByte w, loByte w]

end Sys2Proof.Machine
end

