-- ==== Sys2Proof/Machine/Flags.lean ====
section
/-! DEFINITION. The values that the part's own words show: the attention flags with the cause word and the
attention line, the hold counts and earliest holds, the voucher counts, and the word that each block writes
from its state (10.2). -/

namespace Sys2Proof.Machine

/-! ### Attention (R157, R158) -/

/-- The bit of a flag in a flag or mask word. -/
def Flag.mask (f : Flag) : Word := BitVec.ofNat 16 (2 ^ f.pos)
/-- Is the flag's bit set in a flag or mask word? -/
def Flag.isIn (f : Flag) (w : Word) : Bool := w.getLsbD f.pos

/-- The flags from the highest priority to the lowest (R158). -/
def causePriority : List Flag :=
  [.logFull, .lateResult, .querySeats, .lapsed, .printFault, .printerDown, .tenderQuiet, .laneQuiet,
   .holdWarn, .holdLost, .orderEnd, .tenderStart, .refused, .logHalf, .showChange, .setupState]

/-- The flag that the cause word names: the first of the priority that is set and enabled. -/
def Attention.cause (t : Attention) : Option Flag := causePriority.find? fun f => f.isIn t.flags && f.isIn t.mask

/-- The cause word; 0000h names none. -/
def causeWord (c : Option Flag) : Word := (c.map fun f => wordOf (0x8000 + f.pos)).getD 0

/-- Is a flag of the lane set and enabled (R157)? -/
def Attention.raised (t : Attention) : Bool := t.flags &&& t.mask != 0

/-! ### Counts and earliest holds (R23, R33, R135) -/

/-- Does a hold entry stand in the expiry list? -/
def Hold.held (h : Hold) : Bool := h.slot.isNone

/-- The number of entries in use that name the lane. -/
def Part.holdCount (p : Part) (n : Lane) : Nat := (p.hold.holds.filter fun h => h.lane == n).length

/-- The lane's earliest HELD entry. -/
def Part.earliestHold (p : Part) (n : Lane) : Option Hold := p.hold.holds.find? fun h => h.lane == n && h.held

/-- The number of vouchers in a state. -/
def Part.voucherCount (p : Part) (st : VoucherState) : Nat :=
  (p.directory.entries.toList.filter fun v => v.state == st).length

/-- The states in the order of the four count words. -/
def countState : Fin 4 → VoucherState
  | 0 => .free | 1 => .reserved | 2 => .issued | 3 => .redeemed

/-! ### The words that blocks write from their state -/

/-- The three words of the earliest-hold mirror; 001Fh, FFFFh, 0000h when the lane holds nothing. -/
def mirrorWords (h : Option Hold) : Vector Word 3 :=
  match h with
  | none => #v[0x001F, 0xFFFF, 0x0000]
  | some h => #v[wordOf (h.showNo.val + h.expiry.toNat / 65536 * 256), wordOf h.seat, loWord h.expiry.toNat]

/-- The clock's mirror words 022h to 026h (R7). -/
def clockWord (c : Clock) : Fin 5 → Word
  | 0 => c.day
  | 1 => wordOf c.minute
  | 2 => wordOf c.second
  | 3 => hiWord c.run.toNat
  | 4 => loWord c.run.toNat

/-- The log status words 038h to 03Bh (R161). -/
def logWord (l : LogWriter) : Fin 4 → Word
  | 0 => wordOf l.write
  | 1 => wordOf l.take
  | 2 => wordOf l.used
  | 3 => wordOf l.reserved

/-- The address and the present value of a word that a block writes from its own state (10.2). -/
def partWord (p : Part) : PartWord → Addr × Word
  | .partState => (addrOf 0x20, partStateWord p.setup.part p.setup.cause)
  | .setupResult => (addrOf 0x21, p.setup.result)
  | .mirror k => (addrOf (0x22 + k.val), clockWord p.clock k)
  | .voucherCount k => (addrOf (0x27 + k.val), wordOf (p.voucherCount (countState k)))
  | .printer d high =>
    let w := printerStateWords (p.sideAt d) p.print.exhausted (p.printQueue d).length
    if high then (addrOf (0x2B + 2 * d.val), w.1) else (addrOf (0x2C + 2 * d.val), w.2)
  | .logIndex k => (addrOf (0x38 + k.val), logWord p.log k)
  | .showState sh => (showAddr sh 7, showStateWord (p.showAt sh))
  | .laneState n => (laneAddr n 8, laneStateWord (p.lane n) (p.holdCount n) p.hold.quota[n])
  | .earliest n k => (laneAddr n (9 + k.val), (mirrorWords (p.earliestHold n))[k])
  | .flags n => (laneAddr n 0, (p.att n).flags)
  | .mask n => (laneAddr n 1, (p.att n).mask)
  | .cause n => (laneAddr n 2, causeWord (p.att n).cause)
  | .refusalHigh n => (laneAddr n 3, hiWord (p.att n).addr.toNat)
  | .refusalLow n => (laneAddr n 4, loWord (p.att n).addr.toNat)
  | .refusalReason n => (laneAddr n 5, wordOf (reasonCode (p.att n).reason))
  | .refusalCount n => (laneAddr n 6, wordOf (p.att n).count)

/-- The acts that place the words of a list whose value the change from `p` to `q` changes. -/
def changedWords (p q : Part) (ws : List PartWord) : List Act :=
  (ws.filter fun w => (partWord p w).2 != (partWord q w).2).map .sync

/-- A decision: the part after the changes made when the block takes the request, and the acts that follow. -/
abbrev Decided := Part × List Act

end Sys2Proof.Machine
end

