-- ==== Sys2Proof/Machine/Treatments.lean ====
section
/-! DEFINITION. The treatment that a lane write receives from its region, lane, value and part state (R24, R54,
R55, R58, R59). -/

namespace Sys2Proof.Machine

/-- The treatments, each with the unit and word it names. `capture` is a passed write of TRANSPARENT that the
setup controller captures as well. -/
inductive Treatment
  | pass
  | capture (k : Nat)
  | readOnly
  | refuseSweeping
  | headerWord
  | headerClose
  | takeIndex
  | clockDay
  | clockMinute
  | showRecord (sh : ShowNo) (k : Nat)
  | showCommand (sh : ShowNo)
  | price (k : Fin 24)
  | flagWord
  | maskWord (m : Lane)
  | heartbeat
  | seat
  | record (sl : SlotNo) (k : Nat)
  | control (sl : SlotNo)
  | spool (sl : SlotNo)
  | redeem (i : VoucherNo)
  deriving DecidableEq, Repr

/-- R55: a write into a lane block. -/
def treatLaneBlock (n m : Lane) (k : Nat) : Treatment :=
  if m = n then
    if k = 0 then .flagWord
    else if k = 1 then .maskWord m
    else if k = 7 then .heartbeat
    else if k < 12 then .readOnly
    else .pass
  else if n = 0 ∧ k = 1 then .maskWord m
  else .readOnly

/-- R54, R59: a write in SWEEPING or RUNNING. -/
def treatAccepted (p : Part) (n : Lane) (a : Addr) : Treatment :=
  match p.region a with
  | .header k => if k = 0x1F then .headerClose else .headerWord
  | .status k =>
    if k = 0x39 then .takeIndex
    else if k = 0x3E then .clockDay
    else if k = 0x3F then .clockMinute
    else .readOnly
  | .showRecord sh k => if k = 7 then .showCommand sh else .showRecord sh k
  | .price k => .price k
  | .unassigned => .pass
  | .laneBlock m k => treatLaneBlock n m k
  | .seat =>
    if p.mode = .sweeping then .refuseSweeping
    else if n = 0 ∧ p.seatOf a = none then .pass
    else .seat
  | .order sl k => if k < 15 then .record sl k else if k = 15 then .control sl else .readOnly
  | .spool sl _ => .spool sl
  | .voucher i k =>
    if k < 3 then .readOnly
    else if p.mode = .sweeping then .refuseSweeping
    else .redeem i
  | .log _ _ => .readOnly
  | .outside => .pass

/-- R58: a write in TRANSPARENT. -/
def treatTransparent (n : Lane) (a : Addr) : Treatment :=
  if a.toNat = 0x1F then .headerClose
  else if n = 0 ∧ a.toNat < 0x1F then .capture a.toNat
  else .pass

/-- The treatment of a write of lane `n` to `a`. -/
def Part.treatment (p : Part) (n : Lane) (a : Addr) : Treatment :=
  if p.accepted then treatAccepted p n a else treatTransparent n a

/-- Is the write performed at the memory port as written? -/
def Treatment.passes : Treatment → Bool
  | .pass | .capture _ => true
  | _ => false

/-- The write of a lane that began to pass before the part entered CHECKING (R59). -/
def Part.passingWrite (p : Part) (n : Lane) : Option (Addr × Word) :=
  if p.resetLow then none
  else match (p.lane n).access with
    | some ⟨a, some v, _, true⟩ => some (a, v)
    | _ => none

/-- The passed write that lane `n` presents, if it presents one. -/
def Part.passedWrite (p : Part) (n : Lane) : Option (Addr × Word) :=
  match p.laneWrite n with
  | some (a, v) => if (p.treatment n a).passes then some (a, v) else none
  | none => p.passingWrite n

/-- As the part enters CHECKING, the passed writes that ask for their grants go on asking (R59): a write that a lane
presents has reached the classifier. A write that does not pass, which is one of lanes 1 to 5 to 01Fh, is held through
CHECKING and decided in the state entered (log 40). -/
def Part.keepPassing (p : Part) : Part :=
  { p with lanes := Vector.ofFn fun n => { p.lane n with
      access := (p.lane n).access.map fun x => { x with passes := x.passes || (p.passedWrite n).isSome } } }

/-- The setup controller's capture (R170): a passed write of lane 0 to a header word in TRANSPARENT. -/
def Setup.capture (u : Setup) (k : Nat) (v : Word) : Setup :=
  if k = 0 then { u with cursor := 1, header := (Vector.replicate 31 none).set 0 (some v) }
  else if h : k = u.cursor ∧ k < 31 then { u with cursor := k + 1, header := u.header.set k (some v) h.2 }
  else { u with cursor := 0, header := Vector.replicate 31 none }

/-- What a passed write of lane `n` does beside its value reaching memory or the queue: the capture, and the
write's completion. -/
def Part.passDone (p : Part) (n : Lane) (a : Addr) (v : Word) : Part :=
  let q := match p.treatment n a with
    | .capture k => { p with setup := p.setup.capture k v }
    | _ => p
  q.finish n

end Sys2Proof.Machine
end

