-- ==== Sys2Proof/Machine/AttentionUnit.lean ====
section
/-! DEFINITION. The attention unit's decisions (R151 to R160). -/

namespace Sys2Proof.Machine

/-- The lane block words of the attention unit in the order of R152: refusal record, flags, mask, cause. In
TRANSPARENT and CHECKING the cause word is not written (R160). -/
def attentionWords (p : Part) (n : Lane) : List PartWord :=
  [.refusalHigh n, .refusalLow n, .refusalReason n, .refusalCount n, .flags n, .mask n]
    ++ (if p.accepted then [.cause n] else [])

/-- The ATN lines that a decision brings to their new level when its words are placed (R152, R157). -/
def attentionLines (p : Part) (ns : List Lane) : List Act := if p.accepted then ns.map .line else []

/-- A change of one lane's flags, mask or record, with the placements that follow (R152). -/
def attentionChange (p : Part) (n : Lane) (f : Attention → Attention) : Decided :=
  let q := p.setAtt n f
  (q, changedWords p q (attentionWords p n) ++ attentionLines p [n])

/-- Does the attention unit set the flag? In TRANSPARENT SETUP_STATE is the only one (R160). -/
def Part.mayFlag (p : Part) (f : Flag) : Bool := p.mode != .transparent || f == .setupState

/-- A set request for a flag of a lane (R153): a flag already set changes nothing. One that a withdrawal overtakes and the
attention unit first takes in CHECKING sets its flag until the acceptance clears it, the model's choice (log 22). -/
def setFlag (p : Part) (n : Lane) (f : Flag) : Decided :=
  if f.isIn (p.att n).flags || !p.mayFlag f then (p, [])
  else attentionChange p n fun t => { t with flags := t.flags ||| f.mask }

/-- The set request of SHOW_CHANGE for all six lanes (R152): words of lane 0 first, of lane 5 last. -/
def setShowChange (p : Part) : Decided :=
  let ns := (List.finRange 6).filter fun n => p.mayFlag .showChange && !(Flag.showChange.isIn (p.att n).flags)
  let q := ns.foldl (fun q n => q.setAtt n fun t => { t with flags := t.flags ||| Flag.showChange.mask }) p
  (q, ns.flatMap (fun n => changedWords p q (attentionWords p n)) ++ attentionLines p ns)

/-- A refusal handed on by a lane interface (R159); the lane's write completes at the end. In TRANSPARENT none is
recorded (R160). One handed on before a withdrawal and first taken in CHECKING is recorded, with its words, until the
acceptance clears them (R151), the model's choice (log 22). -/
def recordRefusal (p : Part) (n : Lane) (a : Addr) (r : Reason) : Decided :=
  if p.mode = .transparent then (p, [.finish n])
  else
    let (q, acts) := attentionChange p n fun t =>
      { t with addr := a, reason := some r, count := min 255 (t.count + 1), flags := t.flags ||| Flag.refused.mask }
    (q, acts ++ [.finish n])

/-- A lane's write to its own flag word (R154): positions written 1 are cleared; clearing REFUSED zeroes the
count. -/
def clearFlags (p : Part) (n : Lane) (v : Word) : Decided :=
  let (q, acts) := attentionChange p n fun t =>
    { t with flags := t.flags &&& ~~~v,
             count := if Flag.refused.isIn t.flags && Flag.refused.isIn v then 0 else t.count }
  (q, acts ++ [.finish n])

/-- A write by lane `n` to the mask word of lane `m` (R156). -/
def writeMask (p : Part) (n m : Lane) (v : Word) : Decided :=
  let (q, acts) := attentionChange p m fun t => { t with mask := v }
  (q, acts ++ [.finish n])

/-- A lane's ATN line follows its flags and mask (R157). -/
def bringLine (p : Part) (n : Lane) : Part := p.setAtt n fun t => { t with line := t.raised }

/-- The clearing at acceptance (R151): every word of every lane is written. -/
def clearAttention (p : Part) : Decided :=
  ({ p with attention := Vector.replicate 6 Attention.initial },
   (List.finRange 6).flatMap fun n =>
     [.sync (.refusalHigh n), .sync (.refusalLow n), .sync (.refusalReason n), .sync (.refusalCount n),
      .sync (.flags n), .sync (.mask n), .sync (.cause n)])

end Sys2Proof.Machine
end

