-- ==== Sys2Proof/Machine/LogWriter.lean ====
section
/-! DEFINITION. The log writer's decisions (R161 to R166). -/

namespace Sys2Proof.Machine

/-- The free room: capacity less used and reserved entries (R161). -/
def LogWriter.room (l : LogWriter) : Nat := l.capacity - l.used - l.reserved

/-- Used plus reserved entries come from below the capacity to the capacity (R165). -/
def LogWriter.fills (l l' : LogWriter) : Bool :=
  decide (l.used + l.reserved < l.capacity) && decide (l'.used + l'.reserved = l'.capacity)

/-- The LOG_FULL request of a decision (R165). -/
def logFullActs (l l' : LogWriter) : List Act := if l.fills l' then [.flag 0 .logFull] else []

/-- Reserves `k` entries (R162), if there is room; the first part of the answer says whether. A request that
finds no room raises LOG_FULL (R165). -/
def logReserve (p : Part) (k : Nat) : Bool × Decided :=
  if k ≤ p.log.room then
    let l := { p.log with reserved := p.log.reserved + k }
    (true, { p with log := l }, .sync (.logIndex 3) :: logFullActs p.log l)
  else (false, p, [.flag 0 .logFull])

/-- Hands back `k` reservations (R162); none are left once the log writer has its withdrawal values. -/
def logHandBack (p : Part) (k : Nat) : Decided :=
  if k = 0 ∨ p.mode = .transparent then (p, [])
  else ({ p with log := { p.log with reserved := p.log.reserved - k } }, [.sync (.logIndex 3)])

/-- The acts that write an entry (R163): its eight words at the write index, in word order, then the counts. -/
def logEntryActs (p : Part) (d : Draft) (fromReserved : Bool) : List Act :=
  ((d.words p.clock.minuteNo).mapIdx fun k w => .place (p.logAddr p.log.write k) w) ++ [.logAdvance fromReserved]

/-- The request for an entry from a reservation (R162). In TRANSPARENT there is no log to write (log 22). -/
def writeReserved (p : Part) (d : Draft) : Decided :=
  (p, if p.mode = .transparent then [] else logEntryActs p d true)

/-- The end of an entry (R163): the write index, the used count and, from a reservation, the reserved count;
then the flags of R165. -/
def logAdvance (p : Part) (fromReserved : Bool) : Decided :=
  let l := p.log
  let l' := { l with write := (l.write + 1) % l.capacity, used := l.used + 1,
                     reserved := if fromReserved then l.reserved - 1 else l.reserved }
  ({ p with log := l' },
   [.sync (.logIndex 0), .sync (.logIndex 2)]
     ++ (if fromReserved then [.sync (.logIndex 3)] else [])
     ++ (if 2 * l.used ≤ l.capacity ∧ l.capacity < 2 * l'.used then [.flag 0 .logHalf] else [])
     ++ logFullActs l l')

/-- The take index write (R166): the log after it, if the value is taken. -/
def LogWriter.takeTo (l : LogWriter) (v : Nat) : Option LogWriter :=
  let d := (v + l.capacity - l.take) % l.capacity
  if v < l.capacity ∧ d ≤ l.used then
    some { l with take := v, used := if d = 0 ∧ l.used = l.capacity then 0 else l.used - d }
  else none

end Sys2Proof.Machine
end

