-- ==== Sys2Proof/Machine/Holds.lean ====
section
/-! DEFINITION. The hold unit's decisions (R20 to R41). -/

namespace Sys2Proof.Machine

/-! ### Cells and words of a decision -/

/-- Places the cell of a hold entry (R19). -/
def placeCell (p : Part) (h : Hold) (state : Nat) (holder : Nat) (slot : Nat) : Act :=
  .place (p.seatAddr h.showNo h.seat) (cellWord state holder slot h.cls)

/-- The cell FREE with the entry's class, and HOLD_LOST for its lane (R16, R31, R34, R38). -/
def loseHold (p : Part) (h : Hold) : List Act := [placeCell p h cellFree 0 31, .flag h.lane .holdLost]

/-- The three words of a lane's earliest-hold mirror are rewritten. -/
def earliestActs (n : Lane) : List Act := [.sync (.earliest n 0), .sync (.earliest n 1), .sync (.earliest n 2)]

/-- The earliest-hold mirror is rewritten when the lane's earliest HELD entry becomes another entry, gets a
new expiry second or ceases to exist (R33). -/
def mirrorActs (p q : Part) (n : Lane) : List Act :=
  if mirrorWords (p.earliestHold n) = mirrorWords (q.earliestHold n) then [] else earliestActs n

/-- The lane state word is rewritten when the lane's count changes (R33). -/
def countActs (p q : Part) (n : Lane) : List Act :=
  if p.holdCount n = q.holdCount n then [] else [.sync (.laneState n)]

/-- The hold table after a change of its entries. -/
def Part.setHolds (p : Part) (hs : List Hold) : Part := { p with hold := { p.hold with holds := hs } }

/-- The entry that names a seat. -/
def Part.holdOf (p : Part) (sh : ShowNo) (i : Nat) : Option Hold :=
  p.hold.holds.find? fun h => h.showNo == sh && h.seat == i

/-! ### Claims, renewals and releases (R25 to R30) -/

/-- Checks 1 to 4 of R25: the seat that a CLAIM or EDIT write names, or the refusal. -/
def seatChecks (p : Part) (n : Lane) (a : Addr) (v : Word) : Except Reason (ShowNo × Nat) :=
  if (if (Cell.ofWord v).edit then n != 0 else (p.lane n).role != .kiosk) then .error .role
  else if (p.lane n).lapsed then .error .lapsed
  else match p.seatOf a with
    | some (sh, i) => if (p.showAt sh).state = .opening then .error .sweeping else .ok (sh, i)
    | none => .error .noSeat

/-- A new claim (R27). -/
def newClaim (p : Part) (n : Lane) (a : Addr) (sh : ShowNo) (i : Nat) (c : Cell) : Except Reason Decided :=
  if (p.showAt sh).state ≠ .opened then .error .showShut
  else if c.state = cellHeld then .error .taken
  else if c.state ≠ cellFree then .error .seatState
  else if p.hold.quota[n] ≤ p.holdCount n then .error .quota
  else if 128 ≤ p.hold.holds.length then .error .holdsFull
  else
    let q := p.setHolds (p.hold.holds ++
      [{ showNo := sh, seat := i, lane := n, cls := c.cls, expiry := p.clock.ahead p.hold.duration,
         renewals := 0, warned := false, slot := none }])
    .ok (q, [.place a (cellWord cellHeld n.val 31 c.cls)] ++ mirrorActs p q n
      ++ [.sync (.laneState n), .finish n])

/-- A hold entry after a renewal (R28). -/
def Hold.renewed (h : Hold) (expiry : RunSecond) : Hold :=
  { h with expiry, renewals := h.renewals + 1, warned := false }

/-- A renewal (R28) of the lane's entry `h`: the mirror is rewritten when the entry was the lane's earliest, or
becomes it. -/
def renewal (p : Part) (n : Lane) (sh : ShowNo) (h : Hold) : Except Reason Decided :=
  if (p.showAt sh).state = .dark then .error .showShut
  else if 3 ≤ h.renewals then .error .renewLimit
  else
    let h' := h.renewed (p.clock.ahead p.hold.duration)
    let q := p.setHolds (p.hold.holds.erase h ++ [h'])
    .ok (q, (if p.earliestHold n = some h ∨ q.earliestHold n = some h' then earliestActs n else []) ++ [.finish n])

/-- A release (R30) of the lane's entry `h`. -/
def releaseHold (p : Part) (n : Lane) (h : Hold) : Decided :=
  let q := p.setHolds (p.hold.holds.erase h)
  (q, [placeCell p h cellFree 0 31, .sync (.laneState n)] ++ mirrorActs p q n ++ [.finish n])

/-- A claim value on a cell (R25 check 5, R26, R27, R28, R30). A cell HELD by the lane has its entry (R19);
for one that had none the refusal is SEAT_STATE (log 21). -/
def decideClaim (p : Part) (n : Lane) (a : Addr) (sh : ShowNo) (i : Nat) (v cell : Word) : Except Reason Decided :=
  let c := Cell.ofWord cell
  let own := c.state == cellHeld && c.holder == n.val
  let request := (Cell.ofWord v).state
  if request = cellHeld then
    if own then
      match p.holdOf sh i with
      | some h => renewal p n sh h
      | none => .error .seatState
    else newClaim p n a sh i c
  else if request = cellFree then
    if own then
      match p.holdOf sh i with
      | some h => .ok (releaseHold p n h)
      | none => .error .seatState
    else .error (if c.state = cellHeld then .notYours else .seatState)
  else .error .badRequest

/-! ### Supervisor edits (R39 to R41) -/

/-- The draft of a REFUND or QUERY_RESOLVED entry (R41). -/
def editDraft (kind : LogKind) (detail : Nat) (c : Cell) (sh : ShowNo) (i value : Nat) : Draft :=
  { kind, detail, lane := c.holder, slot := c.slot, showNo := sh.val, value, text := seatText i }

/-- The price of a seat class, from the order unit's copy of the price table. -/
def Part.classPrice (p : Part) (cls : Nat) : Nat := p.order.prices[Fin.ofNat 24 (cls % 8)].toNat

/-- An edit value on a cell (R40): the acts that follow. -/
def decideEdit (p : Part) (n : Lane) (a : Addr) (sh : ShowNo) (i : Nat) (v cell : Word) : Except Reason (List Act) :=
  let c := Cell.ofWord cell
  let e := Cell.ofWord v
  let plain := [.place a (cellWord e.state 0 31 e.cls), .finish n]
  if c.state = cellHeld ∨ c.state = cellPending then .error .busy
  else if c.state = cellFree ∨ c.state = cellBlocked then
    if e.state = cellFree ∨ e.state = cellBlocked then .ok plain else .error .badRequest
  else if c.state = cellSold then
    if e.state = cellFree then
      .ok [.editLog n a (cellWord cellFree 0 31 e.cls) (editDraft .refund 0 c sh i (p.classPrice c.cls))]
    else .error .badRequest
  else
    if e.state = cellFree then
      .ok [.editLog n a (cellWord cellFree 0 31 e.cls) (editDraft .queryResolved 0 c sh i 0)]
    else if e.state = cellSold then
      .ok [.editLog n a (cellWord cellSold 0 31 c.cls) (editDraft .queryResolved 3 c sh i (p.classPrice c.cls))]
    else .error .badRequest

/-- The decision of a CLAIM or EDIT write once the cell is read (R26); its checks 1 to 4 were made when the
hold unit took it. -/
def decideSeat (p : Part) (n : Lane) (a : Addr) (v cell : Word) : Except Reason Decided :=
  match p.seatOf a with
  | none => .error .noSeat
  | some (sh, i) =>
    if (Cell.ofWord v).edit then (decideEdit p n a sh i v cell).map fun acts => (p, acts)
    else decideClaim p n a sh i v cell

/-! ### Expiry, warnings and bulk releases (R31, R32, R34) -/

/-- The head of the expiry list, if its expiry second has been reached (R31). -/
def Part.dueHold (p : Part) : Option Hold :=
  match p.hold.holds.find? Hold.held with
  | some h => if reached p.clock.run h.expiry then some h else none
  | none => none

/-- One expiry removal (R31). -/
def expireHold (p : Part) (h : Hold) : Decided :=
  (p.setHolds (p.hold.holds.erase h), loseHold p h ++ [.sync (.laneState h.lane)] ++ earliestActs h.lane)

/-- Is the lane's earliest entry to be warned (R32)? -/
def Part.toWarn (p : Part) (h : Hold) : Bool :=
  decide ((h.expiry - p.clock.run).toNat ≤ p.hold.warnLead) && !h.warned

/-- The warning pass (R32): at most one warning per lane, asked for in ascending lane number, the model's choice
(log 15). -/
def warningPass (p : Part) : Decided :=
  let due := (List.finRange 6).filterMap fun n => (p.earliestHold n).filter p.toWarn
  let q := p.setHolds (p.hold.holds.map fun h => if due.contains h then { h with warned := true } else h)
  ({ q with hold := { q.hold with round := false } }, due.map fun h => .flag h.lane .holdWarn)

/-- The removal of several entries, with the words of each lane affected written once, after the last. -/
def removeHolds (p : Part) (gone : List Hold) (cells : List Act) (mirror : Lane → List Act) : Decided :=
  let lanes := (List.finRange 6).filter fun n => gone.any fun h => h.lane == n
  (p.setHolds (p.hold.holds.filter fun h => !gone.contains h),
   cells ++ lanes.flatMap fun n => .sync (.laneState n) :: mirror n)

/-- A bulk release (R34) of the HELD entries that answer a description, in expiry-list order. -/
def bulkRelease (p : Part) (covered : Hold → Bool) : Decided :=
  let gone := p.hold.holds.filter fun h => h.held && covered h
  removeHolds p gone (gone.flatMap (loseHold p)) earliestActs

/-! ### Requests of the order unit and the show table (R18, R35 to R38, R79) -/

/-- The entries in the order of a list of seats of a show; none when a seat lacks an entry HELD by the lane. -/
def heldSeats (p : Part) (n : Lane) (sh : ShowNo) (seats : List Nat) : Option (List Hold) :=
  if (p.lane n).lapsed then none
  else seats.mapM fun i => (p.holdOf sh i).filter fun h => h.lane == n && h.held

/-- A pend request (R35): the answer's price classes and the decision, or none for HOLD_MISSING. R35 orders the classes
alone: the model places the cells in the order of the request's seats too (log 15). -/
def pendHolds (p : Part) (sl : SlotNo) (n : Lane) (sh : ShowNo) (seats : List Nat) : Option (List Nat × Decided) :=
  match heldSeats p n sh seats with
  | none => none
  | some hs =>
    let q := p.setHolds (p.hold.holds.map fun h =>
      if hs.contains h then { h with slot := some sl, warned := false } else h)
    some (hs.map (·.cls), q, hs.map (fun h => placeCell p h cellPending n.val sl.val) ++ mirrorActs p q n)

/-- The entries that are PENDING for a slot. -/
def Part.pendingFor (p : Part) (sl : SlotNo) : List Hold := p.hold.holds.filter fun h => h.slot == some sl

/-- A sale request (R36): PENDING entries are no lane's earliest, so no mirror changes. R36 gives the cells no order: the
model places them in the order of the hold list (log 15). -/
def sellHolds (p : Part) (sl : SlotNo) : Decided :=
  let gone := p.pendingFor sl
  removeHolds p gone (gone.map fun h => placeCell p h cellSold h.lane.val sl.val) fun _ => []

/-- A drop request (R38), its cells placed in the order of the hold list, the model's choice (log 15). -/
def dropHolds (p : Part) (sl : SlotNo) : Decided :=
  let gone := p.pendingFor sl
  removeHolds p gone (gone.flatMap (loseHold p)) fun _ => []

/-- A return request (R37) for the entries of a slot in its seat-list order. -/
def returnHolds (p : Part) (sl : SlotNo) (seats : List Nat) : Decided :=
  let mine := p.pendingFor sl
  let back := seats.filterMap fun i => mine.find? fun h => h.seat == i
  let freed := back.filter fun h => (p.showAt h.showNo).state == .dark || (p.lane h.lane).lapsed
  let kept := back.filter fun h => !freed.contains h
  let renewed := kept.map fun h => { h with slot := none, expiry := p.clock.ahead p.hold.duration, warned := false }
  let q := p.setHolds ((p.hold.holds.filter fun h => !back.contains h) ++ renewed)
  let lanes := (List.finRange 6).filter fun n => back.any fun h => h.lane == n
  (q, kept.map (fun h => placeCell p h cellHeld h.lane.val 31) ++ freed.flatMap (loseHold p)
      ++ lanes.flatMap fun n => countActs p q n ++ mirrorActs p q n)

end Sys2Proof.Machine
end

