-- ==== Sys2Proof/Machine/Vouchers.lean ====
section
/-! DEFINITION. The voucher directory's decisions (R135 to R150). -/

namespace Sys2Proof.Machine

/-- Places word `k` of a voucher cell. -/
def placeVoucher (p : Part) (i : VoucherNo) (k : Nat) (v : Word) : Act := .place (p.voucherAddr i k) v

/-- Places the four words of a cell with the FREE values (R136). -/
def placeFreeVoucher (p : Part) (i : VoucherNo) : List Act :=
  (List.range 4).map fun k => placeVoucher p i k (freeVoucherWord k)

/-- The count words that a decision changes, placed once at its end (R137). -/
def countWords (p q : Part) : List Act := changedWords p q ((List.finRange 4).map .voucherCount)

/-- The next value of the tag generator (R141). -/
def nextTag (t : Word) : Word := if t + 0x9E37 = 0 then t + 0x9E37 + 0x9E37 else t + 0x9E37

/-- A reservation for a slot (R140): the indices taken from the head of the free list, and the decision. -/
def reserveVouchers (p : Part) (sl : SlotNo) (sh : ShowNo) (items : List Nat) : List VoucherNo × Decided :=
  let is := p.directory.free.take items.length
  let expiry := (p.showAt sh).expiry
  let q := (is.zip items).foldl (fun q x =>
    q.setVoucher x.1 fun _ => ⟨.reserved, x.2, sh, sl.val, 0, expiry, none⟩) p
  let q := { q with directory := { q.directory with free := p.directory.free.drop items.length } }
  (is, q, ((is.zip items).flatMap fun x =>
      [placeVoucher p x.1 0 (voucherWord0 1 x.2 sh.val), placeVoucher p x.1 1 0,
       placeVoucher p x.1 2 (voucherWord2 sl.val expiry), placeVoucher p x.1 3 0])
    ++ countWords p q)

/-- The issue of one voucher (R141): a fresh tag; words 0 and 1. -/
def issueOne (d : Decided) (i : VoucherNo) : Decided :=
  let (p, acts) := d
  let v := p.voucher i
  let tag := p.directory.tagGen
  let q := p.setVoucher i fun v => { v with state := .issued, tag }
  ({ q with directory := { q.directory with tagGen := nextTag tag } },
   acts ++ [placeVoucher p i 0 (voucherWord0 2 v.item v.showNo.val), placeVoucher p i 1 tag])

/-- The issue of a slot's reserved vouchers (R141). -/
def issueVouchers (p : Part) (is : List VoucherNo) : Decided :=
  let (q, acts) := is.foldl issueOne (p, [])
  (q, acts ++ countWords p q)

/-- Entries made FREE, their indices joining the tail of the free list (R138). -/
def freeVouchers (p : Part) (is : List VoucherNo) : Part :=
  let q := is.foldl (fun q i => q.setVoucher i fun _ => Voucher.initial) p
  { q with directory := { q.directory with free := q.directory.free ++ is } }

/-- The return of a slot's reserved vouchers (R142). -/
def returnVouchers (p : Part) (is : List VoucherNo) : Decided :=
  let q := freeVouchers p is
  (q, is.flatMap (placeFreeVoucher p) ++ countWords p q)

/-- The vouchers of a show that its retirement takes (R147), in ascending index order. -/
def Part.retiring (p : Part) (sh : ShowNo) : List VoucherNo :=
  (List.finRange 256).filter fun i =>
    let v := p.voucher i
    (v.state == .issued || v.state == .redeemed) && v.showNo == sh

/-- The draft of the VOUCHERS_RETIRED entry. -/
def retireDraft (sh : ShowNo) (count : Nat) : Draft :=
  { kind := .vouchersRetired, detail := 0, lane := 0, slot := 31, showNo := sh.val, value := count, text := spaces }

/-- The retirement of a show's vouchers (R147). -/
def retireVouchers (p : Part) (sh : ShowNo) : Decided :=
  let is := p.retiring sh
  let q := freeVouchers p is
  (q, is.map (fun i => placeVoucher p i 0 (voucherWord0 codeRetired (p.voucher i).item sh.val))
      ++ [.writeReserved (retireDraft sh is.length)] ++ countWords p q)

/-- Checks 1 to 5 of a REDEEM write (R143, R144). -/
def redeemChecks (p : Part) (n : Lane) (i : VoucherNo) (tag : Word) : Option Reason :=
  let v := p.voucher i
  if (p.lane n).role ≠ .counter then some .role
  else if (p.lane n).lapsed then some .lapsed
  else if v.state = .redeemed then some .alreadyRedeemed
  else if v.state ≠ .issued then some .voucherState
  else if tag ≠ v.tag then some .badTag
  else if v.expiry < p.clock.minuteNo then some .expired
  else none

/-- The draft of the REDEEMED entry (R144). -/
def redeemDraft (p : Part) (n : Lane) (i : VoucherNo) : Draft :=
  let v := p.voucher i
  { kind := .redeemed, detail := v.item, lane := n.val, slot := v.slot, showNo := v.showNo.val, value := i.val,
    text := spaces }

/-- A redemption whose log entry was granted (R144). -/
def redeemVoucher (p : Part) (n : Lane) (i : VoucherNo) (minute : Nat) : Decided :=
  let v := p.voucher i
  let q := p.setVoucher i fun v => { v with state := .redeemed, redemption := some (n, minute) }
  (q, [placeVoucher p i 0 (voucherWord0 3 v.item v.showNo.val), placeVoucher p i 3 (redemptionWord n minute)]
      ++ countWords p q ++ [.finish n])

/-! ### The directory at acceptance (R148 to R150) -/

/-- The four count words, written when the clear or the rebuild ends. -/
def allCountWords : List Act := (List.finRange 4).map fun k => .sync (.voucherCount k)

/-- The start of the clear (R148). -/
def startClear (p : Part) : Decided :=
  ({ p with directory := { Directory.initial with tagGen := p.setup.tagSeed } }, [.clearWords 0])

/-- The start of the rebuild (R149). -/
def startRebuild (p : Part) : Decided :=
  ({ p with directory := { p.directory with tagGen := p.setup.tagSeed } }, [.rebuild 0 []])

/-- The entry that the rebuild keeps for a cell (R149), if it keeps one. -/
def keptVoucher (p : Part) (w0 w1 w2 w3 : Word) : Option Voucher :=
  let sh : ShowNo := Fin.ofNat 16 (bits w0 8 4)
  let record : Option (Lane × Nat) :=
    if bits w3 15 1 = 1 ∧ bits w3 12 3 < 6 ∧ bits w3 0 11 < 1440 then
      some (Fin.ofNat 6 (bits w3 12 3), bits w3 0 11)
    else none
  let entry (st : VoucherState) (r : Option (Lane × Nat)) : Voucher :=
    ⟨st, bits w0 4 4, sh, bits w2 11 5, w1, (p.showAt sh).expiry, r⟩
  if p.setup.headerShows.contains sh ∧ w1 ≠ 0 then
    if bits w0 0 3 = 2 then some (entry .issued none)
    else if bits w0 0 3 = 3 then record.map fun r => entry .redeemed (some r)
    else none
  else none

/-- The rebuild's decision of cell `i` (R149), with its cell writes. -/
def rebuildCell (p : Part) (i : VoucherNo) (w0 w1 w2 w3 : Word) : Decided :=
  match keptVoucher p w0 w1 w2 w3 with
  | some v => (p.setVoucher i fun _ => v, [])
  | none =>
    (p.setVoucher i fun _ => Voucher.initial,
     if bits w0 0 3 = codeRetired ∨ bits w0 0 3 = 0 then [] else placeFreeVoucher p i)

/-- The rebuild's end (R150): the free list in ascending index order. -/
def rebuildFree (p : Part) : Part :=
  { p with directory := { p.directory with
      free := (List.finRange 256).filter fun i => (p.voucher i).state == .free } }

end Sys2Proof.Machine
end

