-- ==== Sys2Proof/Machine/Orders.lean ====
section
/-! DEFINITION. The order unit's decisions (R67 to R90). -/

namespace Sys2Proof.Machine

/-! ### The captured record (R78) -/

/-- Captured word `k`, 0 where it is not captured. -/
def Shadow.word (s : Shadow) (k : Nat) : Word := ((s.words[k]?).bind id).getD 0
/-- The seat count of word 1. -/
def Shadow.seatCount (s : Shadow) : Nat := bits (s.word 1) 0 4
/-- The voucher count of word 1. -/
def Shadow.voucherCount (s : Shadow) : Nat := bits (s.word 1) 8 4
/-- The seat list: words 2 to 1 + s. -/
def Shadow.seats (s : Shadow) : List Nat := (List.range s.seatCount).map fun k => (s.word (2 + k)).toNat
/-- The item list: words 10 to 9 + v. -/
def Shadow.items (s : Shadow) : List Nat := (List.range s.voucherCount).map fun k => (s.word (10 + k)).toNat
/-- The show that word 0 names. -/
def Shadow.showNo (s : Shadow) : ShowNo := Fin.ofNat 16 (s.word 0).toNat
/-- Does word 0 name this show? -/
def Shadow.names (s : Shadow) (sh : ShowNo) : Bool := (s.word 0).toNat == sh.val
/-- The owner lane; 0 for an EMPTY slot, which has none. -/
def Shadow.ownerLane (s : Shadow) : Lane := s.owner.getD 0

/-- The seven end states (R73). -/
def SlotState.isEnd : SlotState → Bool
  | .refused | .done | .declined | .cancelled | .abandoned | .timedOut | .void => true
  | _ => false

/-- Entering these states asks for ORDER_END (R90). -/
def SlotState.endsOrder (st : SlotState) : Bool := st.isEnd || st == .printHalted

/-! ### Changing a slot (R68, R83, R95) -/

/-- The status words that differ between two shadows of a slot, each placed once (R68). A write that changes none, as a
restart while the cursor is 1, places none, though R70 has the status rewritten at every taken write: the model's choice
(log 53). -/
def statusPlaces (p : Part) (sl : SlotNo) (s t : Shadow) : List Act :=
  (List.range 16).filterMap fun k =>
    if statusWord s k = statusWord t k then none else some (.place (p.orderAddr sl (16 + k)) (statusWord t k))

/-- The slots in a state kept as a list: a slot entering the state joins the tail, one leaving it goes. -/
def listFor (l : List SlotNo) (sl : SlotNo) (inState : Bool) : List SlotNo :=
  if inState then (if l.contains sl then l else l ++ [sl]) else l.erase sl

/-- A slot takes a new shadow. The payment queue holds exactly the QUEUED slots (R83) and the tender window
exactly the TENDERING ones (R95). -/
def Part.commit (p : Part) (sl : SlotNo) (t : Shadow) : Part :=
  let q := p.setSlot sl fun _ => t
  { q with order := { q.order with
      payQueue := listFor q.order.payQueue sl (t.state == .queued),
      window := listFor q.order.window sl (t.state == .tendering) } }

/-- The status placements of a slot's change from `s` to `t`, the change itself, and ORDER_END when the new
state asks for it. -/
def slotActs (p : Part) (sl : SlotNo) (s t : Shadow) : List Act :=
  statusPlaces p sl s t ++ [.commit sl t]
    ++ (if t.state.endsOrder && s.state != t.state then [.flag t.ownerLane .orderEnd] else [])

/-- A QUEUED slot that the order unit takes to an end leaves the payment queue at once, before the effects
(R74, R48, R84); its status words and its other fields follow with the end (log 14). -/
def Part.leaveQueue (p : Part) (st : SlotState) (sl : SlotNo) : Part :=
  p.commit sl { p.slot sl with state := st }

/-- A slot of the order unit changes. -/
def changeSlot (p : Part) (sl : SlotNo) (f : Shadow → Shadow) : List Act := slotActs p sl (p.slot sl) (f (p.slot sl))

/-! ### Assembly, spool and prices (R56, R70, R72) -/

/-- A write to record word `k`, 0 to 14 (R70). -/
def recordWrite (p : Part) (n : Lane) (sl : SlotNo) (k : Nat) (v : Word) : Except Reason (Shadow → Shadow) :=
  let s := p.slot sl
  if s.state = .empty ∧ k = 0 ∧ (p.lane n).role ≠ .kiosk then .error .role
  else if (p.lane n).lapsed then .error .lapsed
  else if s.state ≠ .empty ∧ s.owner ≠ some n then .error .slotOwner
  else if s.state = .empty then
    if k = 0 then
      .ok fun s => { s with state := .assembling, owner := some n, cursor := 1,
                            words := (Vector.replicate 15 none).set 0 (some v) }
    else .error .slotState
  else if s.state = .assembling then
    if k = 0 then .ok fun s => { s with cursor := 1, words := (Vector.replicate 15 none).set 0 (some v) }
    else if k = s.cursor then .ok fun s => { s with cursor := k + 1, words := s.words.setIfInBounds k (some v) }
    else .error .sequence
  else .error .slotState

/-- A write to a spool area (R72): the refusal, or none for a taken write. -/
def spoolChecks (p : Part) (n : Lane) (sl : SlotNo) : Option Reason :=
  let s := p.slot sl
  if (p.lane n).lapsed then some .lapsed
  else if s.state = .empty then some .slotState
  else if s.owner ≠ some n then some .slotOwner
  else if s.state ≠ .assembling then some .slotState
  else none

/-- The gates of a supervisor's write (R57): ROLE from another lane, LAPSED from a LAPSED lane 0. -/
def supervisorGate (p : Part) (n : Lane) : Option Reason :=
  if n ≠ 0 then some .role else if (p.lane 0).lapsed then some .lapsed else none

/-- A taken PRICE write (R56). -/
def setPrice (p : Part) (k : Fin 24) (v : Word) : Part :=
  { p with order := { p.order with prices := p.order.prices.set k v } }

/-! ### Control commands (R73) -/

/-- Checks 1 to 5 of R73. -/
def controlGate (p : Part) (n : Lane) (sl : SlotNo) (c : Control) : Option Reason :=
  let s := p.slot sl
  if c = .forceDone ∧ n ≠ 0 then some .role
  else if (p.lane n).lapsed then some .lapsed
  else if c = .undefined then some .badRequest
  else if s.state = .empty then some .slotState
  else if s.owner ≠ some n ∧ ¬(n = 0 ∧ (c = .forceDone ∨ (c = .release ∧ s.state.isEnd))) then some .slotOwner
  else none

/-- Check 6 of R73: does the slot's state allow the command? -/
def controlState (s : Shadow) : Control → Option Reason
  | .close =>
    if s.state = .assembling then (if s.cursor = 15 then none else some .sequence) else some .slotState
  | .cancel => if s.state = .queued then none else some .slotState
  | .release => if s.state.isEnd then none else some .slotState
  | .reprint _ => if s.state = .done ∨ s.state = .printHalted then none else some .slotState
  | .forceDone => if s.state = .printHalted then none else some .slotState
  | .undefined => some .badRequest

/-- The six checks of R73. -/
def controlChecks (p : Part) (n : Lane) (sl : SlotNo) (c : Control) : Option Reason :=
  (controlGate p n sl c).or (controlState (p.slot sl) c)

/-! ### Closing (R78 to R82) -/

/-- Check 1 of a close: the show is OPEN. -/
def closeShow (p : Part) (s : Shadow) : Bool :=
  decide ((s.word 0).toNat < 16) && (p.showAt s.showNo).state == .opened

/-- Check 2 of a close: the form. -/
def closeForm (p : Part) (s : Shadow) : Bool :=
  let w := s.word 1
  let n := s.seatCount
  let v := s.voucherCount
  bits w 4 4 == 0 && bits w 12 4 == 0 && decide (1 ≤ n) && decide (n ≤ 8) && decide (v ≤ 4)
    && s.seats.all (fun i => decide (i < (p.showAt s.showNo).word 1)) && decide s.seats.Nodup
    && (List.range (8 - n)).all (fun k => s.word (2 + n + k) == 0xFFFF)
    && s.items.all (fun i => decide (i < 16))
    && (List.range (4 - v)).all (fun k => s.word (10 + v + k) == 0xFFFF)

/-- The acts of a taken CLOSE, up to its first request to another block. -/
def closeActs (p : Part) (sl : SlotNo) : List Act :=
  let s := p.slot sl
  if !closeShow p s then [.refuseSlot sl .showShut]
  else if !closeForm p s then [.refuseSlot sl .orderForm]
  else [.closeHolds sl]

/-- The amount (R81): the price of each seat's class and of each item. -/
def orderAmount (p : Part) (classes items : List Nat) : Nat :=
  (classes.map p.classPrice).sum + (items.map fun i => (p.order.prices[Fin.ofNat 24 (8 + i % 16)]).toNat).sum

/-- The draft of an outcome entry (R164). -/
def outcomeDraft (kind : LogKind) (sl : SlotNo) (s : Shadow) (text : Vector Word 3) : Draft :=
  { kind, detail := 0, lane := s.ownerLane.val, slot := sl.val, showNo := s.showNo.val,
    value := s.amount.getD 0, text }

/-- The approval effects (R86); `before` is the shadow whose status words stand in memory. -/
def approvalActs (sl : SlotNo) (s before : Shadow) (auth : Auth) : List Act :=
  [.sale sl] ++ (if s.vouchers.isEmpty then [] else [.issue sl])
    ++ [.writeReserved (outcomeDraft .approved sl s (authWords auth)), .handBack 1, .approve sl auth before,
        .handoff sl .preferred]

/-- The end of a committed close (R80, R82), with the indices that the directory answered. -/
def closeEnd (p : Part) (sl : SlotNo) (classes : List Nat) (indices : List VoucherNo) : Decided :=
  let s := p.slot sl
  let amount := orderAmount p classes s.items
  let t := { s with vouchers := indices, amount := some amount, reserved := 2 }
  if amount = 0 then (p.setSlot sl fun _ => t, approvalActs sl t s authSpaces)
  else (p, slotActs p sl s { t with state := .queued })

/-! ### Outcomes (R85, R88, R89) -/

/-- The log kind of an end state that has an outcome entry. -/
def SlotState.outcomeKind : SlotState → LogKind
  | .declined => .declined | .abandoned => .abandoned | .timedOut => .timedOut | _ => .cancelled

/-- The non-approval effects (R88): the seats by a return or a drop request, the vouchers, the entry, the second
reservation and the end state. -/
def nonApprovalActs (sl : SlotNo) (s : Shadow) (st : SlotState) (drop : Bool) : List Act :=
  [if drop then .drop sl else .returnSeats sl]
    ++ (if s.vouchers.isEmpty then [] else [.returnVouchers sl])
    ++ [.writeReserved (outcomeDraft st.outcomeKind sl s spaces)]
    ++ (if st = .timedOut then [.endSlot sl st 1 s] else [.handBack 1, .endSlot sl st 0 s])

/-- The slot after its end (R88, R77, R87): its vouchers are cleared where they were returned. -/
def Shadow.ended (s : Shadow) (st : SlotState) (keep : Nat) : Shadow :=
  { s with state := st, reserved := keep,
           vouchers := if st = .done ∨ st = .printHalted then s.vouchers else [] }

/-- The slot after an approval (R86). -/
def Shadow.approved (s : Shadow) (auth : Auth) : Shadow :=
  { s with state := .approved, auth := some auth, reserved := 0 }

/-- The slot after a taken REPRINT (R76). -/
def Shadow.reprinted (s : Shadow) : Shadow :=
  { s with state := .approved, reprints := s.reprints + 1, offset := 0, strips := 0, firstSerial := none }

/-- The draft of a REPRINT entry (R76). -/
def reprintDraft (sl : SlotNo) (s : Shadow) : Draft :=
  { outcomeDraft .reprint sl s ((s.auth.map authWords).getD spaces) with detail := s.reprints + 1 }

/-- A RELEASE empties the slot: every field cleared, all 16 status words placed (R75). -/
def emptySlotActs (p : Part) (sl : SlotNo) : List Act :=
  (List.range 16).map (fun k => .place (p.orderAddr sl (16 + k)) (statusWord Shadow.initial k))
    ++ [.commit sl Shadow.initial]

/-- The slots that a lane owns in a state, in ascending slot number. -/
def Part.slotsOf (p : Part) (n : Lane) (st : SlotState) : List SlotNo :=
  (List.finRange 24).filter fun sl => (p.slot sl).owner == some n && (p.slot sl).state == st

/-- The slot teardown of a lapsed lane (R48): its ASSEMBLING slots are made VOID, its QUEUED ones cancelled, in
ascending slot number (log 34). It counts as carried out (R44) when the decision is complete, the model's choice
(log 52). -/
def teardown (p : Part) (n : Lane) : Decided :=
  ((p.slotsOf n .queued).foldl (fun q sl => q.leaveQueue .cancelled sl) p,
   ((List.finRange 24).flatMap fun sl =>
    let s := p.slot sl
    if s.owner = some n ∧ s.state = .assembling then [.endSlot sl .void 0 s]
    else if s.owner = some n ∧ s.state = .queued then nonApprovalActs sl s .cancelled true
    else []) ++ [.teardownDone n])

/-- The states that hold a show from retirement (R18). -/
def SlotState.holdsShow : SlotState → Bool
  | .queued | .tendering | .approved | .printing | .printHalted | .done => true
  | _ => false

/-- The order unit's answer at a RETIRE (R18): does a slot hold the show from retirement? -/
def slotHoldsShow (p : Part) (sh : ShowNo) : Bool :=
  (List.finRange 24).any fun sl => (p.slot sl).state.holdsShow && (p.slot sl).names sh

/-- The order unit's answer at a WITHDRAW (R178): is any slot TENDERING, APPROVED or PRINTING? -/
def slotsBusy (p : Part) : Bool :=
  (List.finRange 24).any fun sl =>
    let st := (p.slot sl).state
    st == .tendering || st == .approved || st == .printing

/-! ### Requests of the tender link (R84, R102 to R106) -/

/-- A fetch take (R84): the slot, QUEUED at the head of the payment queue, goes to TENDERING. -/
def fetchActs (p : Part) (sl : SlotNo) (seq : Byte) (deadline : RunSecond) : List Act :=
  let s := p.slot sl
  if s.state = .queued ∧ p.order.payQueue.head? = some sl ∧ p.order.window.length < 4 then
    slotActs p sl s { s with state := .tendering, seq := some seq, deadline := some deadline }
      ++ [.flag s.ownerLane .tenderStart, .fetched true]
  else [.fetched false]

/-- The classes of a result (R102). -/
inductive ResultClass
  | unknown | stale | taken | late
  deriving DecidableEq, Repr

/-- R102 from its third row on. A result with an old sequence for a slot that is TIMED_OUT once more is STALE, by the
fourth row; the last sentence of R108 gives it UNKNOWN (log 44). -/
def classifySlot (s : Shadow) (seq : Byte) : ResultClass :=
  if s.state ≠ .tendering ∧ s.state ≠ .timedOut then .unknown
  else if s.seq ≠ some seq then .stale
  else if s.state = .timedOut then (if s.late.isSome then .stale else .late)
  else .taken

/-- The outcomes of a result frame (10.5). -/
inductive Outcome
  | approved | declined | customerCancel
  deriving DecidableEq, Repr

/-- Decodes an outcome byte. -/
def Outcome.ofByte (b : Byte) : Option Outcome :=
  if b = 1 then some .approved else if b = 2 then some .declined else if b = 3 then some .customerCancel else none

/-- A taken result (R103). -/
def resultActs (sl : SlotNo) (s : Shadow) (o : Outcome) (auth : Auth) : List Act :=
  match o with
  | .approved => approvalActs sl s s auth
  | .declined => nonApprovalActs sl s .declined false
  | .customerCancel => nonApprovalActs sl s .cancelled false

/-- A late result (R89, R104): the entry from the kept reservation, the flag, the late outcome. -/
def lateActs (sl : SlotNo) (s : Shadow) (o : Outcome) (auth : Auth) : List Act :=
  let (l, text) := if o = .approved then (Late.approved, authWords auth) else (Late.declined, spaces)
  let detail := if o = .approved then 1 else 2
  [.writeReserved { outcomeDraft .lateResult sl s text with detail }, .flag 0 .lateResult, .lateEnd sl l]

/-! ### The deadlines of a second event (R107) -/

/-- The second-event check of tender deadlines, one of the order unit's requests (R69): the slots of the tender window
whose deadline the event of run-second `run` has reached, in window order. -/
def examineDeadlines (p : Part) (run : RunSecond) : Part :=
  let due := p.order.window.filter fun sl =>
    !p.order.due.contains sl && (((p.slot sl).deadline.map (reached run)).getD false)
  { p with order := { p.order with due := p.order.due ++ due } }

/-! ### Requests of the print engine (R87) -/

/-- Job start. -/
def Shadow.jobStarted (s : Shadow) : Shadow :=
  { s with state := .printing, offset := 0, strips := 0, firstSerial := none }

/-- Progress (R87, R124): replaced by what the taken blocks add up to; the request of a run's first strip carries
its serial alone, which is recorded, and the progress stands. -/
def Shadow.progressed (s : Shadow) (taken : Option (Nat × Nat)) (first : Option (BitVec 32)) : Shadow :=
  { s with offset := (taken.map (·.1)).getD s.offset, strips := (taken.map (·.2)).getD s.strips
           firstSerial := first.or s.firstSerial }

end Sys2Proof.Machine
end

