-- ==== Sys2Proof/Machine/Tender.lean ====
section
/-! DEFINITION. The tender link interface (R91 to R111): bytes, frames, verdicts and the quiet timer. -/

namespace Sys2Proof.Machine

/-! ### Codes (10.5) -/

def commandPoll : Byte := 0x11
def commandFetch : Byte := 0x22
def commandReport : Byte := 0x33
def commandAbandon : Byte := 0x44
/-- The filler byte. -/
def filler : Byte := 0xFF
/-- The request frame mark. -/
def frameMark : Byte := 0xA5

/-- Codes of the verdicts. -/
def Verdict.code : Verdict → Byte
  | .taken => 1 | .badCheck => 2 | .closed => 3 | .unknown => 4 | .stale => 5 | .tooLate => 6

/-- Is the request a fetch take? -/
def LinkKind.isFetch : LinkKind → Bool
  | .fetch _ => true
  | _ => false

/-- The link request list holds no fetch take and has room (R92, R97). -/
def TenderLink.canFetch (t : TenderLink) : Bool :=
  decide (t.requests.length < 4) && t.requests.all fun r => !r.kind.isFetch

/-- May a FETCH fix a frame on the head of the payment queue (R97), which is when REQUEST_WAITING shows (R92)? -/
def Part.requestWaiting (p : Part) : Bool :=
  p.mode == .running && !p.order.payQueue.isEmpty && decide (p.order.window.length < 4) && p.tender.canFetch

/-- The tender status byte (R92, 10.5); outside RUNNING no TENDERING count (R110). -/
def Part.statusByte (p : Part) : Byte :=
  let running := p.mode == .running
  BitVec.ofNat 8 (bit p.requestWaiting 7 + bit running 6 + bit p.tender.lastRejected 5
    + if running then p.order.window.length % 8 else 0)

/-! ### Frames (R97, R98) -/

/-- A frame with its check byte. -/
def withCheck (bs : List Byte) : List Byte := bs ++ [crc8 bs]

/-- The request frame of a slot with the counter's sequence. -/
def fetchFrame (sl : SlotNo) (s : Shadow) (seq : Byte) : List Byte :=
  withCheck ([frameMark, BitVec.ofNat 8 sl.val, BitVec.ofNat 8 s.ownerLane.val, seq] ++ bytes4 (s.amount.getD 0)
    ++ [BitVec.ofNat 8 (s.word 0).toNat, BitVec.ofNat 8 s.seatCount, BitVec.ofNat 8 s.voucherCount]
    ++ bytes2 (s.word 14))

/-- The empty frame. -/
def emptyFrame : List Byte := withCheck ([frameMark, filler] ++ List.replicate 11 0)

/-- The auth code of a result frame. -/
def authOf (bs : List Byte) : Auth := Vector.ofFn fun k => bs.getD k.val 0

/-! ### Verdicts (R101, R105) -/

/-- A verdict is given: the LAST_REJECTED mark. -/
def TenderLink.mark (t : TenderLink) (v : Verdict) : TenderLink := { t with lastRejected := v != .taken }

/-- The verdict delivery of the transaction in progress, when it is the one that brought the request. -/
def TenderLink.deliver (t : TenderLink) (live : Bool) (v : Verdict) : TenderLink :=
  if live then { t with shift := t.shift.map fun x => { x with delivery := .decided v } } else t

/-- The head request is settled with a verdict (R102): the mark, the delivery, and the entry leaves. -/
def TenderLink.settleHead (t : TenderLink) (v : Verdict) : TenderLink :=
  match t.requests with
  | [] => t
  | r :: rest => { (t.mark v).deliver r.live v with requests := rest, handed := false }

/-- The head fetch take is settled (R99): a taken one advances the counter. -/
def TenderLink.settleFetch (t : TenderLink) (taken : Bool) : TenderLink :=
  match t.requests with
  | [] => t
  | _ :: rest => { t with requests := rest, handed := false, counter := if taken then t.counter + 1 else t.counter }

/-! ### The byte times of a transaction (R91, R93) -/

/-- The byte of the verdict delivery (R101), and the delivery after it. -/
def Delivery.next : Delivery → Byte × Delivery
  | .none => (filler, .none)
  | .waiting => (0x00, .waiting)
  | .decided v => (v.code, .none)

/-- Byte time 1 of a FETCH begins: the frame is fixed (R97). -/
def fixFrame (p : Part) (t : Transaction) : Transaction :=
  match p.requestWaiting, p.order.payQueue with
  | true, sl :: _ =>
    { t with frame := fetchFrame sl (p.slot sl) p.tender.counter, frameSlot := some sl, frameSeq := p.tender.counter }
  | _, _ => { t with frame := emptyFrame, frameSlot := none }

/-- The byte that the part sends in the byte time that begins (R91, R93), and the transaction after. -/
def chooseByte (p : Part) (t : Transaction) : Transaction :=
  let send (b : Byte) : Transaction := { t with sending := some b }
  let deliver : Transaction := { t with sending := some t.delivery.next.1, delivery := t.delivery.next.2 }
  if t.sending.isSome then t
  else if t.dead then send filler
  else if t.byteTime = 0 then send t.status
  else if t.command = some commandFetch then
    if t.byteTime = 1 then
      let u := fixFrame p t
      { u with sending := some (u.frame.getD 0 filler) }
    else if t.byteTime ≤ 14 then send (t.frame.getD (t.byteTime - 1) filler)
    else send filler
  else if t.command = some commandReport then (if t.byteTime ≤ 10 then send filler else deliver)
  else if t.command = some commandAbandon then (if t.byteTime ≤ 3 then send filler else deliver)
  else send filler

/-- A frame has arrived (R101): its verdict at once, or its place in the link request list, or nothing. -/
def frameArrives (p : Part) (t : Transaction) (bs : List Byte) (kind : LinkKind) : TenderLink :=
  let link := { p.tender with shift := some t }
  if p.mode ≠ .running then (link.mark .closed).deliver true .closed
  else if bs.getLast? ≠ some (crc8 bs.dropLast) then (link.mark .badCheck).deliver true .badCheck
  else if 4 ≤ p.tender.requests.length then link
  else
    { link with
      shift := some { t with delivery := .waiting }
      requests := link.requests ++ [⟨(bs.getD 0 0).toNat, bs.getD 1 0, kind, true⟩] }

/-- The bytes of a byte time are clocked out and have arrived (R91, R93, R99, R101). -/
def byteEnds (p : Part) (t : Transaction) (b : Byte) : TenderLink :=
  let k := t.byteTime
  let link (u : Transaction) : TenderLink := { p.tender with shift := some u }
  let t' := { t with byteTime := k + 1, bitPos := 0, sending := none }
  if t.dead then link t'
  else if k = 0 then link { t' with command := some b }
  else if t.command = some commandFetch then
    match k, t.frameSlot with
    | 14, some sl =>
      if p.tender.requests.length < 4 then
        { p.tender with
          shift := some t'
          requests := p.tender.requests
            ++ [⟨sl.val, t.frameSeq, .fetch (p.clock.ahead p.tender.timeout), true⟩] }
      else link t'
    | _, _ => link t'
  else if t.command = some commandReport then
    let bs := t.received ++ [b]
    if k < 10 then link { t' with received := bs }
    else if k = 10 then frameArrives p { t' with received := [] } bs (.result (bs.getD 2 0) (authOf (bs.drop 3)))
    else link t'
  else if t.command = some commandAbandon then
    let bs := t.received ++ [b]
    if k < 3 then link { t' with received := bs }
    else if k = 3 then frameArrives p { t' with received := [] } bs .abandon
    else link t'
  else link t'

/-- One whole byte time of the transaction in progress; `sent` records the byte clocked out. -/
def clockByte (p : Part) (b : Byte) : Part :=
  match p.tender.shift with
  | none => p
  | some t =>
    let u := chooseByte p t
    let link := byteEnds p u b
    { p with tender := { link with sent := link.sent ++ [u.sending.getD filler] } }

/-- The clock goes on to a bit position of the next byte time, whose byte is then chosen. -/
def clockBits (p : Part) (k : Nat) : Part :=
  match p.tender.shift with
  | some t =>
    if k ≤ t.bitPos then p
    else { p with tender := { p.tender with shift := some { chooseByte p t with bitPos := k } } }
  | none => p

/-- What the concentrator clocks on a transaction with a command: the command byte itself when it has not
arrived yet, then the bytes and the bits of the operand. A transaction whose command is another is not this
row's; while TSEL is high TCK and TDI are ignored (R91). -/
def clockLink (p : Part) (command : Byte) (c : Clocking) : Part :=
  match p.tender.shift with
  | none => p
  | some t =>
    if t.byteTime = 0 then clockBits ((command :: c.bytes).foldl clockByte p) c.bits
    else if t.dead ∨ t.command = some command then clockBits (c.bytes.foldl clockByte p) c.bits
    else p

/-- TSEL falls (R92, R109): the status byte is loaded, the quiet count and mark are cleared. A transaction that
begins while RESET is low is dead (log 18). -/
def startTransaction (p : Part) : Part :=
  match p.tender.shift with
  | some _ => p
  | none =>
    { p with tender := { p.tender with
        quiet := 0, quietRaised := false, sent := []
        shift := some
          { dead := p.resetLow, byteTime := 0, bitPos := 0, command := none, status := p.statusByte,
            sending := some (if p.resetLow then filler else p.statusByte), received := [], frame := [],
            frameSlot := none, frameSeq := 0, delivery := .none } } }

/-- TSEL rises (R91): the partial byte time is lost; a verdict not yet clocked out is lost to the concentrator. -/
def endTransaction (p : Part) : Part :=
  { p with tender := { p.tender with
      shift := none, requests := p.tender.requests.map fun r => { r with live := false } } }

/-- The transaction in progress after a reset: FFh in every byte time (R111). -/
def Transaction.afterReset (t : Transaction) : Transaction :=
  { t with dead := true, command := none, sending := t.sending.map fun _ => filler, received := [], frame := [],
           frameSlot := none, frameSeq := 0, delivery := .none }

/-- The requests in the list at a withdrawal (R111): results and abandons are answered CLOSED. -/
def TenderLink.withdrawn (t : TenderLink) : TenderLink :=
  let rejected := t.requests.any fun r => !r.kind.isFetch
  let live := t.requests.any fun r => r.live && !r.kind.isFetch
  { TenderLink.initial with
    lastRejected := rejected, sent := t.sent, shift := (t.deliver live .closed).shift }

/-! ### The head of the link request list (R96, R102, R106) -/

/-- The slot that a request names. -/
def LinkReq.slotNo (r : LinkReq) : Option SlotNo := if h : r.slot < 24 then some ⟨r.slot, h⟩ else none

/-- The class of the head request against the shadow as it stands: a verdict, or none when it is handed to the
order unit. -/
def classifyHead (p : Part) (r : LinkReq) : Option Verdict :=
  match r.kind with
  | .fetch _ => none
  | .result o _ =>
    match Outcome.ofByte o, r.slotNo with
    | some _, some sl =>
      match classifySlot (p.slot sl) r.seq with
      | .unknown => some .unknown
      | .stale => some .stale
      | .taken | .late => none
    | _, _ => some .unknown
  | .abandon =>
    match r.slotNo with
    | none => some .unknown
    | some sl =>
      if (p.slot sl).state ≠ .tendering then some .unknown
      else if (p.slot sl).seq ≠ some r.seq then some .stale
      else none

/-- The head request is settled, or handed to the order unit (R96). -/
def settleLink (p : Part) : Part :=
  match p.tender.requests with
  | [] => p
  | r :: _ =>
    if p.tender.handed then p
    else if p.mode ≠ .running ∧ !r.kind.isFetch then { p with tender := p.tender.settleHead .closed }
    else match classifyHead p r with
      | some v => { p with tender := p.tender.settleHead v }
      | none => { p with tender := { p.tender with handed := true } }

/-! ### The quiet timer (R109) -/

/-- The waiting condition. -/
def Part.orderWaits (p : Part) : Bool :=
  p.mode == .running && !p.order.payQueue.isEmpty && decide (p.order.window.length < 4)

/-- The examination of a second event, by the waiting condition and TSEL as it finds them; the acts ask for
TENDER_QUIET. -/
def examineQuiet (p : Part) : Decided :=
  let t := { p.tender with examine := false }
  if !p.orderWaits then ({ p with tender := { t with quiet := 0, quietRaised := false } }, [])
  else if t.shift.isSome then ({ p with tender := { t with quiet := 0 } }, [])
  else if t.quietRaised then ({ p with tender := t }, [])
  else if t.quiet + 1 < 20 then ({ p with tender := { t with quiet := t.quiet + 1 } }, [])
  else ({ p with tender := { t with quiet := t.quiet + 1, quietRaised := true } }, [.flag 0 .tenderQuiet])

end Sys2Proof.Machine
end

