-- ==== Sys2Proof/Machine/Printing.lean ====
section
/-! DEFINITION. The print engine (R112 to R134). -/

namespace Sys2Proof.Machine

/-! ### Codes (10.6) -/

/-- Codes of the block kinds. -/
def BlockKind.code : BlockKind → Byte
  | .data => 0xD1 | .cut => 0xC2 | .status => 0x53

/-- A printer's answer (10.6): taken with or without paper low, not taken and retried, or a fault. -/
inductive Answer
  | ready | paperLow | busy | fault (c : FaultCause)
  deriving DecidableEq, Repr

/-- Decodes a status byte; an unrecognised value acts as BUSY (R128). -/
def Answer.ofByte (b : Byte) : Answer :=
  if b = 0x06 then .ready
  else if b = 0x07 then .paperLow
  else if b = 0x10 then .fault .paperOut
  else if b = 0x11 then .fault .jam
  else if b = 0x12 then .fault .coverOpen
  else .busy

/-! ### Printer words and sides -/

/-- The two words of a printer state word (R120). -/
def printerWords (d : Printer) : List Act := [.sync (.printer d true), .sync (.printer d false)]

/-- The printer state words whose value a change changes (R120); both words of a printer are placed together. -/
def printerActs (p q : Part) (d : Printer) : List Act :=
  if changedWords p q [.printer d true, .printer d false] = [] then [] else printerWords d

/-- The side with no job: current job, stream position and staging buffer cleared (R129, R130). -/
def Side.cleared (s : Side) (st : SideState) (c : FaultCause) : Side :=
  { s with state := st, cause := c, busy := 0, job := none, reprint := 0, bodyLen := none, offset := 0,
           placed := 0, word := none, buf := [], kind := .data, stage := .empty }

/-! ### The hand-off (R117, R118) -/

/-- The printer whose queue takes a job. -/
def choosePrinter (p : Part) (n : Lane) (c : Choice) : Printer :=
  let asked := match c with
    | .preferred => p.print.preferred[n]
    | .printer d => d
  let other : Printer := if asked = 0 then 1 else 0
  if (p.sideAt asked).state = .offline ∧ (p.sideAt other).state ≠ .offline then other else asked

/-- The job joins a printer queue; the second part is the printer. -/
def takeHandoff (p : Part) (sl : SlotNo) (c : Choice) : Part × Printer :=
  let d := choosePrinter p (p.slot sl).ownerLane c
  (p.setPrintQueue d fun q => q ++ [sl], d)

/-! ### Strips (R113 to R116) -/

/-- The strips of a slot: its seats, then its reserved vouchers. -/
def Shadow.stripTotal (s : Shadow) : Nat := s.seatCount + s.vouchers.length

/-- Strip `k` of a slot with a print serial and a reprint number (R114, R115). -/
def strip (p : Part) (sl : SlotNo) (k : Nat) (serial : BitVec 32) (reprint : Nat) : List Byte :=
  let s := p.slot sl
  let e := p.showAt s.showNo
  let byte (n : Nat) : Byte := BitVec.ofNat 8 n
  let headOf (kind : Nat) : List Byte := [byte kind, byte (e.word 6), byte s.showNo.val] ++ bytes2 (wordOf (e.word 3))
    ++ [byte sl.val]
  let tailOf : List Byte := (s.auth.getD authSpaces).toList ++ bytes4 serial.toNat ++ [byte reprint]
  let own : List Byte :=
    if k < s.seatCount then
      headOf 1 ++ bytes2 (s.word (2 + k)) ++ [0xFF] ++ bytes2 0
    else
      let i := s.vouchers.getD (k - s.seatCount) 0
      let v := p.voucher i
      headOf 2 ++ bytes2 (wordOf i.val) ++ [byte v.item] ++ bytes2 v.tag
  let body := own ++ tailOf
  body ++ bytes2 (crc16 body)

/-- The side places its next strip (R116), which takes the counter's value. -/
def placeStrip (p : Part) (d : Printer) (sl : SlotNo) : Part :=
  let s := p.sideAt d
  let serial := p.print.serial
  let q := p.setSide d fun x =>
    { x with buf := x.buf ++ strip p sl s.placed serial s.reprint, placed := x.placed + 1 }
  if serial = 0xFFFFFFFF then { q with print := { q.print with exhausted := true } }
  else { q with print := { q.print with serial := serial + 1 } }

/-! ### Halts (R116, R130) -/

/-- The side halts its job: the new state and cause, the queue, then the requests in the order of R130. -/
def haltSide (p : Part) (d : Printer) (sl : SlotNo) (st : SideState) (c : FaultCause) : Decided :=
  let q := (p.setSide d fun s => s.cleared st c).setPrintQueue d fun l => l.erase sl
  (q, [.askHalt sl, .flag (p.slot sl).ownerLane .printFault, .flag 0 .printerDown] ++ printerWords d)

/-! ### Filling the staging buffer (R112, R113, R122, R123) -/

/-- The spool word that the side needs before its next item: word 0 until the length is known, then the word of
the next body byte. -/
def Side.needs (s : Side) : Option Nat :=
  match s.bodyLen with
  | none => some 0
  | some len => if s.offset < len then some (1 + s.offset / 2) else none

/-- The spool word that the side needs and does not hold. -/
def Side.asks (s : Side) : Option Nat :=
  match s.needs with
  | none => none
  | some k => if s.word.map (·.1) = some k then none else some k

/-- The next body byte, from the word in hand. -/
def Side.nextByte (s : Side) : Byte :=
  let w := ((s.word.map (·.2)).getD 0)
  if s.offset % 2 = 0 then hiByte w else loByte w

/-- The strip marker. -/
def stripMarker : Byte := 0x1D

/-- The block is closed and made ready as a DATA block (R123). -/
def Side.close (s : Side) : Side := { s with stage := .ready, kind := .data }

/-- A full buffer closes the block; otherwise the side goes on filling. -/
def goOnFilling (p : Part) (d : Printer) : Decided :=
  if 32 ≤ (p.sideAt d).buf.length then (p.setSide d Side.close, []) else (p, [.fill d])

/-- A strip is the next item, at body offset `next` once it is placed (R113, R116, R123, R124). A strip that sets the
exhausted mark and is a run's first places the printers' words before its progress request, the model's choice (log 45). -/
def fillStrip (p : Part) (d : Printer) (sl : SlotNo) (next : Nat) : Decided :=
  let s := p.sideAt d
  if 32 < s.buf.length + 24 then (p.setSide d Side.close, [])
  else if p.print.exhausted then haltSide p d sl .idle s.cause
  else
    let q := (placeStrip p d sl).setSide d fun x => { x with offset := next }
    let (r, acts) := goOnFilling q d
    let words := if q.print.exhausted then printerWords 0 ++ printerWords 1 else []
    let first := if s.placed = 0 then
        [.askProgress d none (some p.print.serial)] else []
    (r, words ++ first ++ acts)

/-- One item of the print stream (R113, R123), the spool word that it needs being in hand. -/
def fillItem (p : Part) (d : Printer) (sl : SlotNo) : Decided :=
  let s := p.sideAt d
  let left := decide (s.placed < (p.slot sl).stripTotal)
  match s.bodyLen with
  | none =>
    (p.setSide d fun x => { x with bodyLen := some (min 508 ((x.word.map (·.2.toNat)).getD 0)), word := none }, [.fill d])
  | some len =>
    if s.offset < len then
      if s.nextByte = stripMarker then
        if left then fillStrip p d sl (s.offset + 1)
        else (p.setSide d fun x => { x with offset := x.offset + 1 }, [.fill d])
      else
        goOnFilling (p.setSide d fun x => { x with buf := x.buf ++ [s.nextByte], offset := x.offset + 1 }) d
    else if left then fillStrip p d sl s.offset
    else if s.buf = [] then (p.setSide d fun x => { x with stage := .ready, kind := .cut }, [])
    else (p.setSide d Side.close, [])

/-- The print reader delivers a word to the side that stands first in its asks (R122). -/
def deliverSpool (p : Part) (d : Printer) (k : Nat) (w : Word) : Part :=
  let q := p.setSide d fun s => { s with word := some (k, w) }
  { q with print := { q.print with reader := q.print.reader.erase d } }

/-- The first ask of the print reader: the side, the spool word and its address. -/
def Part.spoolAsk (p : Part) : Option (Printer × Nat × Addr) :=
  match p.print.reader with
  | [] => none
  | d :: _ =>
    match (p.sideAt d).job, (p.sideAt d).asks with
    | some sl, some k => some (d, k, p.spoolAddr sl k)
    | _, _ => none

/-! ### The printer link (R125 to R131) -/

/-- The bytes of a block (R126). -/
def blockBytes (kind : BlockKind) (payload : List Byte) : List Byte :=
  withCheck ([kind.code, BitVec.ofNat 8 payload.length] ++ payload)

/-- Does the side want the link (R127)? -/
def Side.wants (s : Side) : Bool := (s.state == .streaming && s.stage == .ready) || s.pollDue

/-- A progress request, which a side makes before it goes on (R124). -/
def Act.isProgress : Act → Bool
  | .askProgress _ _ _ => true
  | _ => false

/-- A STREAMING side's progress request is still to be taken, or the order unit's decision of it is not complete: the
side does not go on until it is (R124, log 48). -/
def Part.progressOpen (p : Part) (d : Printer) : Bool :=
  (p.task (.side d)).acts.any Act.isProgress ||
    ((p.sideAt d).state == .streaming && (p.task (.side d)).acts.contains (.await .order))

/-- A side wants the link by R127 alone, whatever of its words, flags or other requests waits, but not before the slot
status shows the progress that it has asked for (R124, log 42). -/
def Part.wantsLink (p : Part) (d : Printer) : Bool := (p.sideAt d).wants && !p.progressOpen d

/-- The side that gets the next exchange (R127). -/
def Part.nextServed (p : Part) : Option Printer :=
  if p.print.exchange.isSome then none
  else
    let other : Printer := if p.print.lastServed = 0 then 1 else 0
    if p.wantsLink other then some other
    else if p.wantsLink p.print.lastServed then some p.print.lastServed
    else none

/-- The kind of block that a side sends next. -/
def Side.nextKind (s : Side) : BlockKind := if s.state == .streaming && s.stage == .ready then s.kind else .status

/-- The exchange of a side begins, if it is a block of this kind and the side's turn (R127). -/
def beginExchange (p : Part) (d : Printer) (kind : BlockKind) : Part :=
  if p.accepted ∧ p.nextServed = some d ∧ (p.sideAt d).nextKind = kind then
    let payload := if kind = .data then (p.sideAt d).buf else []
    let q := p.setSide d fun s =>
      if kind = .status then { s with pollDue := false } else { s with stage := .exchange }
    { q with print := { q.print with
        exchange := some ⟨d, kind, false⟩, lastServed := d, sent := blockBytes kind payload } }
  else p

/-- The link is free again (R125). -/
def Part.endExchange (p : Part) : Part := { p with print := { p.print with exchange := none } }

/-- The block was not taken and is held for retry (R128). -/
def heldForRetry (p : Part) (d : Printer) (sl : SlotNo) : Decided :=
  let n := (p.sideAt d).busy + 1
  if 40 ≤ n then haltSide p d sl .offline .busyLimit
  else
    let q := p.setSide d fun s => { s with busy := n, stage := .held }
    (q, printerActs p q d)

/-- The block was taken (R128): the busy count, the paper-low mark and the staging buffer. -/
def takenBlock (p : Part) (d : Printer) (low : Bool) : Part :=
  p.setSide d fun s => { s with busy := 0, paperLow := low, buf := [], stage := .empty }

/-- The answer to a DATA block (R124, R128). The printer state word of a taken block is placed before the progress
request, the model's choice (log 45). -/
def answerData (p : Part) (d : Printer) (sl : SlotNo) (a : Answer) : Decided :=
  let s := p.sideAt d
  let taken (low : Bool) : Decided :=
    let q := takenBlock p d low
    (q, printerActs p q d ++ [.askProgress d (some (s.offset, s.placed)) none])
  match a with
  | .ready => taken false
  | .paperLow => taken true
  | .busy => heldForRetry p d sl
  | .fault c => haltSide p d sl .faulted c

/-- The answer to a CUT block (R128, R129). The printer state word of a taken block is placed before the completion
request, the model's choice (log 45). -/
def answerCut (p : Part) (d : Printer) (sl : SlotNo) (a : Answer) : Decided :=
  let taken (low : Bool) : Decided :=
    let q := takenBlock p d low
    (q, printerActs p q d ++ [.askDone d, .sideIdle d])
  match a with
  | .ready => taken false
  | .paperLow => taken true
  | .busy => heldForRetry p d sl
  | .fault c => haltSide p d sl .faulted c

/-- The answer to a STATUS block (R131). The printer state word is placed before PRINTER_DOWN is asked for, the model's
choice (log 45): a lane that clears the flag then finds the event in the word, as R155 says. -/
def answerStatus (p : Part) (d : Printer) (a : Answer) : Decided :=
  let recovered (low : Bool) : Decided :=
    let q := p.setSide d fun s => { s with state := .idle, cause := .none, paperLow := low }
    (q, printerActs p q d)
  match a with
  | .ready => recovered false
  | .paperLow => recovered true
  | .busy => (p, [])
  | .fault c =>
    let q := p.setSide d fun s => { s with state := .faulted, cause := c }
    (q, printerActs p q d ++ if (p.sideAt d).state = .offline then [.flag 0 .printerDown] else [])

/-- The end of a run (R129): the slot leaves the queue and the side goes to IDLE. -/
def sideToIdle (p : Part) (d : Printer) : Decided :=
  match (p.sideAt d).job with
  | none => (p, [])
  | some sl =>
    let q := (p.setSide d fun s => s.cleared .idle s.cause).setPrintQueue d fun l => l.erase sl
    (q, printerWords d)

/-- The side takes the head job of its queue (R121). -/
def startJob (p : Part) (d : Printer) (sl : SlotNo) : Decided :=
  let q := p.setSide d fun s =>
    { s.cleared .streaming s.cause with job := some sl, reprint := (p.slot sl).reprints }
  (q, printerWords d ++ [.askStart d])

end Sys2Proof.Machine
end

