-- ==== Sys2Proof/Machine/Shows.lean ====
section
/-! DEFINITION. The show table and the sweep engine (R8 to R18, R175). -/

namespace Sys2Proof.Machine

/-- Rewrites a show's state word (R10). -/
def showWord (sh : ShowNo) : Act := .sync (.showState sh)

/-! ### Record writes and commands (R9, R10, R14) -/

/-- A write to record word `k`, 0 to 6 (R9): the entry after a taken write. -/
def captureRecord (e : ShowEntry) (k : Nat) (v : Word) : Except Reason ShowEntry :=
  if e.state ≠ .vacant then .error .showBusy
  else if k = 0 then .ok { e with cursor := 1, words := (Vector.replicate 7 none).set 0 (some v) }
  else if h : k = e.cursor ∧ k < 7 then .ok { e with cursor := k + 1, words := e.words.set k (some v) h.2 }
  else .error .sequence

/-- Do the maps of two entries share a seat? -/
def ShowEntry.overlaps (e f : ShowEntry) : Bool :=
  decide (e.word 0 < f.word 0 + f.word 1) && decide (f.word 0 < e.word 0 + e.word 1)

/-- The open checks (R11) on the captured words, against a foyer minute number. -/
def openChecks (p : Part) (sh : ShowNo) (minute : Nat) : Bool :=
  let e := p.showAt sh
  let size := ((p.windows.map (·.seatSize)).getD 0) * 256
  decide (1 ≤ e.word 1) && decide (e.word 1 ≤ 1024) && decide (e.word 0 + e.word 1 ≤ size)
    && (List.finRange 16).all (fun other => other == sh || !(p.showAt other).active || !e.overlaps (p.showAt other))
    && decide (e.word 3 < 1440) && decide (e.word 4 ≤ 120) && decide (e.word 5 ≤ 240)
    && decide (minute + e.word 4 < e.word 2 * 1440 + e.word 3)
    && decide (1 ≤ e.word 6) && decide (e.word 6 ≤ 99)

/-- The entry of a show whose open checks pass (R11): the derived values, last command OPEN, OPENING. -/
def ShowEntry.opening (e : ShowEntry) : ShowEntry :=
  let start := e.word 2 * 1440 + e.word 3
  { e with state := .opening, cut := false, fault := false, last := .opened, start,
           cutoff := start - e.word 4, expiry := start + e.word 5 }

/-- The entry of a show whose open checks fail (R11). -/
def ShowEntry.formFault : ShowEntry := { ShowEntry.initial with fault := true }

/-- The OPEN command (R10, R11): the refusal that comes with no effect, or whether the checks pass. -/
def openCommand (p : Part) (sh : ShowNo) : Except Reason Bool :=
  let e := p.showAt sh
  if e.state ≠ .vacant then .error .showBusy
  else if e.cursor ≠ 7 then .error .sequence
  else .ok (openChecks p sh p.clock.minuteNo)

/-- The CUT command (R10, R14). -/
def cutCommand (e : ShowEntry) : Option Reason :=
  match e.state with
  | .opened => none
  | .opening => some .busy
  | _ => some .showShut

/-- The RETIRE command (R10, R18), up to its three questions. -/
def retireCommand (e : ShowEntry) : Option Reason :=
  match e.state with
  | .vacant => some .showShut
  | .opening => some .busy
  | _ => none

/-- The entry of a retired show (R18). -/
def ShowEntry.retired : ShowEntry := { ShowEntry.initial with last := .retired }

/-- A show changes state: the state word and SHOW_CHANGE for all lanes (R15). -/
def showActs (sh : ShowNo) : List Act := [showWord sh, .showChange]

/-! ### The minute evaluation (R15, R16) -/

/-- A show goes to DARK and asks for its DARK release (R16); an evaluation that a withdrawal finds going on
asks for none, the hold table being gone (log 22). -/
def goDark (p : Part) (sh : ShowNo) : Part :=
  let q := p.setShow sh fun e => { e with state := .dark, cut := false }
  if p.accepted then { q with hold := { q.hold with darkDue := q.hold.darkDue ++ [sh] } } else q

/-- The evaluation of the first show of a list (R15); one that goes to CUTOFF is evaluated again for DARK before the
next show (log 41). -/
def evaluateShow (p : Part) (shs : List ShowNo) (minute : Nat) : Decided :=
  match shs with
  | [] => (p, [])
  | sh :: rest =>
    let e := p.showAt sh
    if e.state = .opened ∧ (e.cutoff ≤ minute ∨ e.cut) then
      (p.setShow sh fun e => { e with state := .cutoff, cut := false }, showActs sh ++ [.evaluate (sh :: rest) minute])
    else if e.state = .cutoff ∧ e.start ≤ minute then
      (goDark p sh, showActs sh ++ [.evaluate rest minute])
    else (p, [.evaluate rest minute])

/-- The show table is asked for a minute evaluation; one still waiting serves for this one as well. -/
def postEvaluation (p : Part) : Part :=
  if (p.task .shows).acts.contains .evaluateStart then p else p.post .shows [.evaluateStart]

/-! ### Sweeps (R12, R13) -/

/-- The cell that the opening sweep writes for the cell it finds, if it writes one (R12), with the fields of R19. -/
def sweptCell (w : Word) : Option Word :=
  let c := Cell.ofWord w
  let v :=
    if c.state = cellHeld then freeCell c.cls
    else if c.state = cellPending ∨ 6 ≤ c.state then cellWord cellQuery c.holder c.slot c.cls
    else if c.state = cellFree ∨ c.state = cellBlocked then cellWord c.state 0 31 c.cls
    else cellWord c.state c.holder c.slot c.cls
  if c.edit ∨ c.state = cellHeld ∨ c.state = cellPending ∨ 6 ≤ c.state then some v else none

/-- Does the opening sweep turn the cell into QUERY? -/
def turnsQuery (w : Word) : Bool :=
  let c := Cell.ofWord w
  decide (c.state = cellPending ∨ 6 ≤ c.state)

/-- The directory work of the acceptance lets sweeps start (R12, R176). -/
def Part.sweepsMayStart (p : Part) : Bool := p.accepted && p.setup.work == .ended

/-- The next cell that the sweep engine reads: of the sweep in progress, or the first of the next request. -/
def Part.sweepNext (p : Part) : Option SweepPos :=
  if p.busy .sweep || !p.sweepsMayStart then none
  else match p.sweep.current with
    | some c => if c.seat < (p.showAt c.showNo).word 1 then some c else none
    | none => p.sweep.requests.head?.map fun sh => ⟨sh, 0, false⟩

/-- The sweep decides the cell it has read (R12). -/
def sweepCell (p : Part) (c : SweepPos) (w : Word) : Decided :=
  let q := { p with sweep :=
    { requests := if p.sweep.current.isSome then p.sweep.requests else p.sweep.requests.drop 1
      current := some { c with seat := c.seat + 1, query := c.query || turnsQuery w } } }
  (q, match sweptCell w with
      | some v => [.place (p.seatAddr c.showNo c.seat) v]
      | none => [])

/-- The sweep that has decided its last cell (R13). -/
def Part.sweepEnded (p : Part) : Option SweepPos :=
  if p.busy .sweep then none
  else p.sweep.current.filter fun c => decide ((p.showAt c.showNo).word 1 ≤ c.seat)

/-- The state that the show table chooses at a sweep end (R13). -/
def chooseState (p : Part) (sh : ShowNo) : Part :=
  let e := p.showAt sh
  let minute := p.clock.minuteNo
  if e.start ≤ minute then goDark p sh
  else if e.cutoff ≤ minute ∨ e.cut then p.setShow sh fun e => { e with state := .cutoff, cut := false }
  else p.setShow sh fun e => { e with state := .opened }

end Sys2Proof.Machine
end

