-- ==== Sys2Proof/Machine/SetupController.lean ====
section
/-! DEFINITION. The setup controller: the header checks, the initialisation and the withdrawal (R167 to R179). -/

namespace Sys2Proof.Machine

/-! ### The header (R173) -/

/-- Captured header word `k`, 0 where it is not captured. -/
def Setup.word (u : Setup) (k : Nat) : Nat := (((u.header[k]?).bind id).map (·.toNat)).getD 0

/-- The windows in the order SEAT, ORDER, SPOOL, VOUCHER, LOG: header word, base and size in words. -/
def Setup.windowList (u : Setup) : List (Nat × Nat × Nat) :=
  [(0x00, u.word 0x00 * 256, u.word 0x01 * 256), (0x02, u.word 0x02 * 256, 3 * 256),
   (0x03, u.word 0x03 * 256, 24 * 256), (0x04, u.word 0x04 * 256, 4 * 256),
   (0x05, u.word 0x05 * 256, 2 ^ u.word 0x06 * 8)]

/-- The first window that shares a word with one before it (step 4). -/
def firstOverlap : List (Nat × Nat × Nat) → List (Nat × Nat × Nat) → Option Nat
  | _, [] => none
  | before, (k, b, n) :: rest =>
    if before.any fun w => decide (w.2.1 < b + n) && decide (b < w.2.1 + w.2.2) then some k
    else firstOverlap (before ++ [(k, b, n)]) rest

/-- The role field of a lane in header word 0Ah; code 3 is undefined. -/
def Setup.roleCode (u : Setup) (n : Lane) : Nat := u.word 0x0A / 2 ^ (2 * n.val) % 4

/-- A lane's role. -/
def roleOf (code : Nat) : Role := if code = 1 then .kiosk else if code = 2 then .counter else .none

/-- The first lane whose quota does not fit its role (step 10). -/
def Setup.badQuota (u : Setup) : Option Lane :=
  (List.finRange 6).find? fun n =>
    let k := u.word (0x0C + n.val)
    if u.roleCode n = 1 then decide (k < 1 ∨ 24 < k) else decide (k ≠ 0)

/-- The header checks (R173): the sub-reason's code and the failing header word of the first that fails. -/
def headerCheck (u : Setup) : Option (Nat × Nat) :=
  if u.word 0x06 < 5 ∨ 9 < u.word 0x06 then some (2, 0x06)
  else if u.word 0x01 < 1 ∨ 64 < u.word 0x01 then some (3, 0x01)
  else match u.windowList.find? fun w => decide (w.2.1 < 512 ∨ 0x40000 < w.2.1 + w.2.2) with
  | some w => some (3, w.1)
  | none => match firstOverlap [] u.windowList with
    | some k => some (3, k)
    | none =>
      if u.word 0x07 < 30 ∨ 900 < u.word 0x07 then some (4, 0x07)
      else if 1 < u.word 0x08 then some (5, 0x08)
      else if u.word 0x09 < 30 ∨ 240 < u.word 0x09 then some (6, 0x09)
      else if (List.finRange 6).any fun n => u.roleCode n == 3 then some (7, 0x0A)
      else if 64 ≤ u.word 0x0B then some (8, 0x0B)
      else match u.badQuota with
        | some n => some (9, 0x0C + n.val)
        | none =>
          if 1439 < u.word 0x13 then some (10, 0x13)
          else if u.word 0x14 = 0 then some (11, 0x14)
          else if 255 < u.word 0x15 then some (11, 0x15)
          else if 1 < u.word 0x18 then some (12, 0x18)
          else none

/-- The foyer minute number of the header, with which the clock starts (R174). -/
def Setup.startMinute (u : Setup) : Nat := u.word 0x12 * 1440 + u.word 0x13

/-! ### ACCEPT (R171, R173, R174) -/

/-- The capture is ended. -/
def Setup.endCapture (u : Setup) : Setup := { u with cursor := 0, header := Vector.replicate 31 none }

/-- An acceptance refused with a sub-reason and a failing word: the words, SETUP_STATE, the return to TRANSPARENT
and the end of the ACCEPT write. -/
def refuseSetup (p : Part) (sub failing : Nat) : Decided :=
  ({ p with setup := { p.setup.endCapture with result := setupFormWord sub failing } },
   [.sync .setupResult, .place (addrOf 0x20) (partStateWord .transparent p.setup.cause), .flag 0 .setupState,
    .setPart .transparent, .finish 0])

/-- The initialisation's acts in the order of R174. The part state word of SWEEPING is placed before SWEEPING is entered,
the model's choice (log 46): so the part leaves CHECKING and the ACCEPT write ends at one moment (R59, R171), with every
word of the write placed (R51), also where the word waits for space. -/
def initActs (c : ResetCause) : List Act :=
  [.sync .partState, .sync .setupResult, .initLoad, .priceRead 0, .initLog, .initSlots 0, .initLanes,
   .showRead 0 [], .clockStart, .place (addrOf 0x20) (partStateWord .sweeping c), .enterSweeping, .finish 0]

/-- ACCEPT by lane 0 in TRANSPARENT (R171). The value is placed first. -/
def acceptHeader (p : Part) : Decided :=
  let value := .place (addrOf 0x1F) wordAccept
  if p.setup.cursor ≠ 31 then
    let (q, acts) := refuseSetup p 1 p.setup.cursor
    (q, value :: acts)
  else
    let q := { p.keepPassing with setup := { p.setup with part := .checking, cursor := 0 } }
    match headerCheck p.setup with
    | some (sub, failing) =>
      let (r, acts) := refuseSetup q sub failing
      (r, value :: acts)
    | none => ({ q with setup := { q.setup with result := 0 } }, value :: initActs p.setup.cause)

/-- Step 2 of R174: each block takes its header values, once every block has those of a withdrawal (log 22). -/
def initLoad (p : Part) : Part :=
  let u := p.setup
  { p with
    windows := some
      { seatBase := u.word 0x00, seatSize := u.word 0x01, orderBase := u.word 0x02, spoolBase := u.word 0x03,
        voucherBase := u.word 0x04, logBase := u.word 0x05, logExp := u.word 0x06 }
    lanes := Vector.ofFn fun n => { p.lane n with role := roleOf (u.roleCode n) }
    shows := Vector.replicate 16 ShowEntry.initial
    hold := { HoldUnit.initial with
      duration := u.word 0x07, warnLead := if u.word 0x08 = 0 then 10 else 30,
      quota := Vector.ofFn fun n => u.word (0x0C + n.val) }
    tender := { TenderLink.initial with
      shift := p.tender.shift, sent := p.tender.sent, counter := BitVec.ofNat 8 (u.word 0x15), timeout := u.word 0x09 }
    log := { p.log with capacity := 2 ^ u.word 0x06 }
    print := { p.print with
      serial := BitVec.ofNat 32 (u.word 0x16 * 65536 + u.word 0x17), exhausted := false,
      preferred := Vector.ofFn fun n => Fin.ofNat 2 (u.word 0x0B / 2 ^ n.val) }
    setup := { u with
      tagSeed := BitVec.ofNat 16 (u.word 0x14), keep := u.word 0x18 == 1, headerShows := [], sweepsLeft := [],
      work := .none } }

/-- Step 3: a price word is read. -/
def loadPrice (p : Part) (k : Nat) (v : Word) : Decided :=
  (setPrice p (Fin.ofNat 24 k) v, if k < 23 then [.priceRead (k + 1)] else [])

/-- The draft of the SETUP_ACCEPTED entry (R164). -/
def setupDraft (c : ResetCause) : Draft :=
  { kind := .setupAccepted, detail := c.code, lane := 0, slot := 31, showNo := 31, value := 0, text := spaces }

/-- Step 4: the log is cleared, its four words placed, and the SETUP_ACCEPTED entry written. -/
def initLog (p : Part) : Decided :=
  let q := { p with log := { LogWriter.initial with capacity := p.log.capacity } }
  (q, ((List.finRange 4).map fun k => .sync (.logIndex k)) ++ logEntryActs q (setupDraft p.setup.cause) false)

/-- Step 5: the status words of slot `k` and of those after it. -/
def initSlots (p : Part) (k : Nat) : List Act :=
  (List.range 16).map (fun j => .place (p.orderAddr (Fin.ofNat 24 k) (16 + j)) (statusWord Shadow.initial j))
    ++ (if k < 23 then [.initSlots (k + 1)] else [])

/-- Step 6: the lane state words and mirrors, the attention words, the printer state words. -/
def initLanes (p : Part) : Decided :=
  let (q, attention) := clearAttention p
  (q, ((List.finRange 6).flatMap fun n =>
        [.sync (.laneState n), .sync (.earliest n 0), .sync (.earliest n 1), .sync (.earliest n 2)])
      ++ attention ++ printerWords 0 ++ printerWords 1)

/-- Does record word 7 hold OPEN (R175, 10.2)? -/
def holdsOpen (w : Word) : Bool := w == 0x8001 || (bits w 15 1 == 0 && bits w 8 2 == 1)

/-- Step 7: a show record, its eight words read (R175). -/
def determineShow (p : Part) (sh : ShowNo) (got : List Word) : Decided :=
  if holdsOpen (got.getD 7 0) then
    let q := p.setShow sh fun e =>
      { e with cursor := 7, words := Vector.ofFn fun k => some (got.getD k.val 0) }
    if openChecks q sh p.setup.startMinute then
      let r := q.setShow sh ShowEntry.opening
      ({ r with setup := { r.setup with headerShows := r.setup.headerShows ++ [sh] } }, showActs sh)
    else (q.setShow sh fun _ => ShowEntry.formFault, [showWord sh])
  else (p.setShow sh fun _ => ShowEntry.initial, [showWord sh])

/-- A word of the show records is read (R175): word `got.length` of the record of show `k`. The model reads the
words of a record in ascending order, word 7 the last (log 36). -/
def loadShow (p : Part) (k : Nat) (got : List Word) (v : Word) : Decided :=
  let got' := got ++ [v]
  if got'.length < 8 then (p, [.showRead k got'])
  else
    let (q, acts) := determineShow p (Fin.ofNat 16 k) got'
    (q, acts ++ if k < 15 then [.showRead (k + 1) []] else [])

/-- The clock's mirror words (R7). -/
def mirrorSyncs : List Act := (List.finRange 5).map fun k => .sync (.mirror k)

/-- Step 8: the clock starts (R4). -/
def startClock (p : Part) : Decided :=
  ({ p with clock := { p.clock with
      day := BitVec.ofNat 16 (p.setup.word 0x12), minute := p.setup.word 0x13, second := 0, eighth := 0, run := 0,
      started := true, pendingDay := none } }, mirrorSyncs)

/-- Step 9, with the requests of R176: the part enters SWEEPING, its state word being placed (log 46). -/
def enterSweeping (p : Part) : Part :=
  let u := p.setup
  { p with
    setup := { u.endCapture with part := .sweeping, sweepsLeft := u.headerShows, work := .asked u.keep }
    sweep := { p.sweep with requests := u.headerShows } }

/-! ### WITHDRAW (R178) -/

/-- The print engine's withdrawal values (R116 to R127); its sides take theirs one by one. -/
def PrintEngine.withdrawn (g : PrintEngine) : PrintEngine :=
  { PrintEngine.initial with sides := g.sides, exchange := g.exchange, sent := g.sent }

/-- Is an exchange of the side in progress? -/
def Part.exchanging (p : Part) (d : Printer) : Bool := p.print.exchange.map (·.printer) == some d

/-- A block takes its withdrawal values (R178 step 2). The order unit and the tender link have theirs from the
withdrawal itself; while a poll is in progress both sides keep theirs until it has ended (R134). -/
def takeWithdrawal (p : Part) : Block → Part
  | .clock => { p with clock := { p.clock with started := false, pendingDay := none } }
  | .shows => { p with shows := Vector.replicate 16 ShowEntry.initial }
  | .hold => { p with hold := HoldUnit.initial }
  | .directory => { p with directory := Directory.initial }
  | .log => { p with log := LogWriter.initial }
  | .attention => { p with attention := Vector.replicate 6 Attention.initial }
  | .print => { p with print := p.print.withdrawn }
  | .sweep => { p with sweep := ⟨[], none⟩ }
  | .side d => if p.print.exchange.isSome then p else p.setSide d fun _ => Side.initial
  | .lane n => p.setLane n fun l => { LaneIf.initial with access := l.access, dout := l.dout }
  | .order | .setup | .tender => p

/-- Is the act a block's taking of its withdrawal values? -/
def Act.isWithdrawal : Act → Bool
  | .withdraw _ => true
  | _ => false

/-- Do the withdrawal values of a block wait for other tasks of its block? The print engine and its two sides are one
block: they take theirs once no decision of any of the three is in progress (R178 step 2). -/
def Part.decidingBeside (p : Part) : Block → Bool
  | .print | .side _ =>
    [Block.print, .side 0, .side 1].any fun b => (p.task b).acts.any fun a => !a.isWithdrawal
  | _ => false

/-- A block takes its withdrawal values now, or at the end of the decision that it is inside (R178 step 2). The words
that such a decision has still to place, the clock's mirror words among them, are placed in TRANSPARENT, where R1 and R7
say that the part no longer mirrors: the model's choice (log 49). -/
def withdrawBlock (p : Part) (b : Block) : Part :=
  if p.busy b then p.post b [.withdraw b]
  else if p.decidingBeside b then (p.post b [.withdraw b]).waits b
  else takeWithdrawal p b

/-- The blocks with withdrawal values of their own to take. -/
def withdrawnBlocks : List Block :=
  [.clock, .shows, .hold, .directory, .log, .attention, .print, .sweep, .side 0, .side 1,
   .lane 0, .lane 1, .lane 2, .lane 3, .lane 4, .lane 5]

/-- Is the block still to take its withdrawal values? -/
def Part.withdrawing (p : Part) : Bool :=
  withdrawnBlocks.any (fun b => (p.task b).acts.contains (.withdraw b))
    || (p.print.exchange.map (·.discard)).getD false

/-- The acts by which a block has still to decide a lane's write: the cell of a claim is not read, or the log writer
has not answered a redemption (log 43). -/
def Act.undecided : Act → Option Lane
  | .seatRead n | .redeemLog n _ _ => some n
  | _ => none

/-- A write that its block has not decided when the withdrawal is taken is left to the TRANSPARENT state, which
passes it (R52). -/
def Part.leaveUndecided (p : Part) (b : Block) : Part :=
  let left := (p.task b).acts.filterMap Act.undecided
  let q := p.setTask b ⟨(p.task b).acts.filter fun a => a.undecided.isNone, (p.task b).parts⟩
  left.foldl (fun q n => q.setLane n fun l => { l with access := l.access.map fun x => { x with decided := false } }) q

/-- A minute evaluation asked for and not yet taken is dropped (log 37). -/
def Part.dropEvaluation (p : Part) : Part :=
  p.setTask .shows ⟨(p.task .shows).acts.filter (· != .evaluateStart), (p.task .shows).parts⟩

/-- A lane state word that waits for space has from now on the value that it has now. -/
def Act.keepLaneWord (p : Part) : Act → Act
  | .sync (.laneState n) => .place (partWord p (.laneState n)).1 (partWord p (.laneState n)).2
  | a => a

/-- The lane state words that still wait when a WITHDRAW is taken. They show both the lane interface and the hold unit,
which take their withdrawal values apart; each is placed as the part last decided it (R179), the model's choice
(log 54). -/
def Part.keepLaneWords (p : Part) : Part :=
  { p with work := p.work.map fun t => { t with acts := t.acts.map (Act.keepLaneWord p) } }

/-- The withdrawal is taken: the writes not yet decided (R52), the lane state words that still wait, the part state and
the reset cause, the windows, the rotation order, the order unit and the tender link; a poll in progress will have its
answer discarded (R134); then each block as R178 step 2 gives. -/
def withdrawNow (p : Part) : Part :=
  let p := ([Block.hold, .directory].foldl Part.leaveUndecided p.dropEvaluation).keepLaneWords
  withdrawnBlocks.foldl withdrawBlock
    { p with
      setup := { Setup.initial .withdraw with result := p.setup.result }
      windows := none
      rotation := rotationInitial
      order := OrderUnit.initial
      tender := p.tender.withdrawn
      print := { p.print with exchange := p.print.exchange.map fun x => { x with discard := true } } }

/-- The acts of a taken withdrawal (R178). The value goes before the part state word, the model's choice (log 46): so the
write ends when the part state word has been placed (step 3), with its value in place (R51). -/
def withdrawActs (n : Lane) : List Act := [.place (addrOf 0x1F) wordWithdraw, .sync .partState, .finish n]

end Sys2Proof.Machine
end

