-- ==== Sys2Proof/Machine/UpdateQueue.lean ====
section
/-! DEFINITION. Placements in the update queue, with the lane accesses that a new entry serves (R50, R62 to R65). -/

namespace Sys2Proof.Machine

/-- A lane whose read or passed write waits for its grant is served by the entry that the queue now holds for
the word: the read is answered from it (R50), the write is coalesced into it (R64). -/
def serveLane (a : Addr) (p : Part) (n : Lane) : Part :=
  if p.laneRead n = some a then p.finishRead n ((queueFind p.queue a).getD 0)
  else match p.passedWrite n with
    | some (b, w) => if b = a then Part.passDone { p with queue := queueReplace p.queue a w } n a w else p
    | none => p

/-- A block's placement (R63): none when it waits. A new entry serves the lanes that wait for the word, lane 0 first
and lane 5 last (log 39). -/
def placeWord (p : Part) (a : Addr) (v : Word) : Option Part :=
  match queuePlace p.queue a v with
  | none => none
  | some q =>
    let p' := { p with queue := q }
    some (if (queueFind p.queue a).isSome then p' else (List.finRange 6).foldl (serveLane a) p')

end Sys2Proof.Machine
end

