-- ==== Sys2Proof/Machine/Engine.lean ====
section
/-! DEFINITION. How the blocks carry out their decisions: each act in order, each placement waiting for space
(R63), each request waiting until the asked block is free (R21, R69, R139, R152, R162). -/

namespace Sys2Proof.Machine

/-- What comes of one act: the part after it, the acts that take its place, the decision that an asked block
starts, and blocks that have been handed more to do. -/
structure Took where
  part : Part
  acts : List Act := []
  started : Option (Block × List Act) := none
  kicks : List Block := []

/-- An act that only changes the part. -/
def did (p : Part) : Option Took := some { part := p }
/-- An act whose decision is the block's own. -/
def own (d : Decided) : Option Took := some { part := d.1, acts := d.2 }
/-- A request to another block: it waits while that block is inside a decision. -/
def ask (p : Part) (target : Block) (d : Decided) (next : List Act := []) : Option Took :=
  if p.busy target then none else some { part := d.1, acts := next, started := some (target, d.2) }

/-- A request to the voucher directory: the asker waits until the directory's decision is complete (R139). -/
def askDirectory (p : Part) (d : Decided) (next : List Act := []) : Option Took :=
  ask p .directory d (.await .directory :: next)

/-! ### Reads at the memory port -/

/-- The word that a read act needs. -/
def readAddr (p : Part) : Act → Option Addr
  | .seatRead n => (p.lane n).access.map (·.addr)
  | .priceRead k => some (addrOf (0xC0 + k))
  | .showRead k got => some (addrOf (0x40 + 8 * k + got.length))
  | .rebuild k got => if k < 256 then some (p.voucherAddr (Fin.ofNat 256 k) got.length) else none
  | _ => none

/-- The hold unit's decision of the write of lane `n` once its cell is read (R26). -/
def takeSeat (p : Part) (n : Lane) (cell : Word) : Took :=
  match (p.lane n).access with
  | some ⟨a, some v, _, _⟩ =>
    match decideSeat p n a v cell with
    | .ok (q, acts) => { part := q, acts }
    | .error r => { part := p.handRefusal n r }
  | _ => { part := p }

/-- The rebuild's read of one cell word (R149), words 0 to 3 of a cell in ascending order, the model's choice (log 36). -/
def takeCellWord (p : Part) (k : Nat) (got : List Word) (v : Word) : Decided :=
  match got with
  | [w0, w1, w2] =>
    let (q, acts) := rebuildCell p (Fin.ofNat 256 k) w0 w1 w2 v
    (q, acts ++ [.rebuild (k + 1) []])
  | _ => (p, [.rebuild k (got ++ [v])])

/-- A read act goes on with the word that it read. -/
def takeRead (p : Part) (v : Word) : Act → Took
  | .seatRead n => takeSeat p n v
  | .priceRead k => let d := loadPrice p k v; { part := d.1, acts := d.2 }
  | .showRead k got => let d := loadShow p k got v; { part := d.1, acts := d.2 }
  | .rebuild k got => let d := takeCellWord p k got v; { part := d.1, acts := d.2 }
  | _ => { part := p }

/-! ### Requests with an answer -/

/-- A RETIRE's first question (R18, R147): one log entry is reserved. -/
def takeRetireLog (p : Part) (n : Lane) (sh : ShowNo) : Option Took :=
  let (granted, d) := logReserve p 1
  if granted then ask p .log d [.retireSlots n sh]
  else ask p .log (d.1.handRefusal n .busy, d.2)

/-- Its second question, to the order unit (R18). -/
def takeRetireSlots (p : Part) (n : Lane) (sh : ShowNo) : Option Took :=
  if slotHoldsShow p sh then ask p .order (p.handRefusal n .busy, []) [.handBack 1]
  else ask p .order (p, []) [.retireHolds n sh]

/-- Its last question, to the hold unit, which then waits until the show is VACANT (R18). -/
def takeRetireHolds (p : Part) (n : Lane) (sh : ShowNo) : Option Took :=
  if p.hold.holds.any fun h => h.showNo == sh then ask p .hold (p.handRefusal n .busy, []) [.handBack 1]
  else
    ask p .hold
      ({ p with hold := { p.hold with darkDue := p.hold.darkDue.filter fun x => x != sh } }, [.holdFor sh])
      [.retireVouchers sh, .retireDone sh, .finish n]

/-- Check 3 of a close (R79). -/
def takeCloseHolds (p : Part) (sl : SlotNo) : Option Took :=
  let s := p.slot sl
  if (heldSeats p s.ownerLane s.showNo s.seats).isSome then
    ask p .hold (p, []) [if s.voucherCount = 0 then .closeLog sl else .closeDirectory sl]
  else ask p .hold (p, []) [.refuseSlot sl .holdMissing]

/-- Check 4 of a close (R79, R140). -/
def takeCloseDirectory (p : Part) (sl : SlotNo) : Option Took :=
  if (p.slot sl).voucherCount ≤ p.directory.free.length then ask p .directory (p, []) [.closeLog sl]
  else ask p .directory (p, []) [.refuseSlot sl .noVoucher]

/-- Check 5 of a close (R79, R162). -/
def takeCloseLog (p : Part) (sl : SlotNo) : Option Took :=
  let (granted, d) := logReserve p 2
  ask p .log d [if granted then .pend sl else .refuseSlot sl .logFull]

/-- The pend request of a close (R35, R80). -/
def takePend (p : Part) (sl : SlotNo) : Option Took :=
  let s := p.slot sl
  match pendHolds p sl s.ownerLane s.showNo s.seats with
  | some (classes, d) => ask p .hold d [.closeReserve sl classes]
  | none => ask p .hold (p, []) [.handBack 2, .refuseSlot sl .holdMissing]

/-- The reservation of a close and its end (R80 to R82). -/
def takeCloseReserve (p : Part) (sl : SlotNo) (classes : List Nat) : Option Took :=
  let s := p.slot sl
  if s.voucherCount = 0 then own (closeEnd p sl classes [])
  else
    let (indices, d) := reserveVouchers p sl s.showNo s.items
    let (q, acts) := closeEnd d.1 sl classes indices
    askDirectory p (q, d.2) acts

/-- An entry asked of free room (R162): granted, with what follows; or LOG_FULL to the lane. -/
def takeFreeEntry (p : Part) (n : Lane) (d : Draft) (granted : Decided) : Option Took :=
  if 1 ≤ p.log.room then ask p .log (granted.1, logEntryActs p d false) granted.2
  else ask p .log (p.handRefusal n .logFull, [.flag 0 .logFull])

/-- A side's request to the order unit (R87): the side goes on when the order unit's decision is complete (R69), so the
slot status shows what the decision has changed before the side does anything more (R124, log 48). -/
def askOrder (p : Part) (acts : List Act) : Option Took := ask p .order (p, acts) [.await .order]

/-- A side's job start, progress or completion request about the slot of its job, which is in state `st` (R87). -/
def takeJobRequest (p : Part) (d : Printer) (st : SlotState) (f : Shadow → Shadow) : Option Took :=
  match (p.sideAt d).job with
  | none => did p
  | some sl => askOrder p (if (p.slot sl).state = st then changeSlot p sl f else [])

/-- The print engine takes a hand-off as soon as it arrives (R118). -/
def takeJob (p : Part) (sl : SlotNo) (c : Choice) : Took :=
  let (q, d) := takeHandoff p sl c
  { part := q.post .print (printerWords d), kicks := [.print] }

/-- The side fills its buffer by one item, or asks the print reader for the word it needs (R122, R123). -/
def takeFill (p : Part) (d : Printer) : Option Took :=
  match (p.sideAt d).job, (p.sideAt d).asks with
  | none, _ => did p
  | some sl, none => own (fillItem p d sl)
  | some _, some _ =>
    if p.print.reader.contains d then none
    else own ({ p with print := { p.print with reader := p.print.reader ++ [d] } }, [.fill d])

/-- The clear's next cell word, or its end (R148). -/
def takeClear (p : Part) (k : Nat) : Option Took :=
  if k < 1024 then
    own (p, [placeVoucher p (Fin.ofNat 256 (k / 4)) (k % 4) (freeVoucherWord (k % 4)), .clearWords (k + 1)])
  else own (p, allCountWords ++ [.directoryEnd])

/-! ### One act -/

/-- One act of block `b`; none when it waits. -/
def take (p : Part) (a : Act) : Option Took :=
  match readAddr p a with
  | some x => (queueFind p.queue x).map fun v => takeRead p v a
  | none =>
    match a with
    | .place x v => (placeWord p x v).bind did
    | .sync w => (placeWord p (partWord p w).1 (partWord p w).2).bind did
    | .finish n => did (p.finish n)
    | .line n => did (bringLine p n)
    | .flag n f => ask p .attention (setFlag p n f)
    | .showChange => ask p .attention (setShowChange p)
    | .refusal n x r => ask p .attention (recordRefusal p n x r)
    | .logAdvance r => own (logAdvance p r)
    | .handBack k => ask p .log (logHandBack p k)
    | .writeReserved d => ask p .log (writeReserved p d)
    | .editLog n x cell d => takeFreeEntry p n d (p, [.place x cell, .finish n])
    | .releaseDone n => did (p.setLane n fun l => { l with releaseDue := false })
    | .await b => if p.busy b then none else did p
    | .holdFor sh => if (p.showAt sh).state = .vacant then did p else none
    | .evaluateStart => own (p, [.evaluate (List.finRange 16) p.clock.minuteNo])
    | .evaluate shs minute => own (evaluateShow p shs minute)
    | .retireLog n sh => takeRetireLog p n sh
    | .retireSlots n sh => takeRetireSlots p n sh
    | .retireHolds n sh => takeRetireHolds p n sh
    | .retireVouchers sh => askDirectory p (retireVouchers p sh)
    | .sweepAsk sh => did { p with sweep := { p.sweep with requests := p.sweep.requests ++ [sh] } }
    | .sweepDone sh => did { p with setup := { p.setup with sweepsLeft := p.setup.sweepsLeft.erase sh } }
    | .retireDone sh => own (p.setShow sh fun _ => ShowEntry.retired, showActs sh)
    | .closeHolds sl => takeCloseHolds p sl
    | .closeDirectory sl => takeCloseDirectory p sl
    | .closeLog sl => takeCloseLog p sl
    | .refuseSlot sl r => own (p, changeSlot p sl fun s => { s with state := .refused, reason := some r })
    | .pend sl => takePend p sl
    | .closeReserve sl classes => takeCloseReserve p sl classes
    | .sale sl => ask p .hold (sellHolds p sl)
    | .returnSeats sl => ask p .hold (returnHolds p sl (p.slot sl).seats)
    | .drop sl => ask p .hold (dropHolds p sl)
    | .issue sl => askDirectory p (issueVouchers p (p.slot sl).vouchers)
    | .returnVouchers sl => askDirectory p (returnVouchers p (p.slot sl).vouchers)
    | .approve sl auth before => own (p, slotActs p sl before ((p.slot sl).approved auth))
    | .endSlot sl st keep before => own (p, slotActs p sl before ((p.slot sl).ended st keep))
    | .emptySlot sl => own (p, emptySlotActs p sl)
    | .handoff sl c => some (takeJob p sl c)
    | .reprintLog n sl c x v =>
      takeFreeEntry p n (reprintDraft sl (p.slot sl))
        (p, changeSlot p sl Shadow.reprinted ++ [.handoff sl c, .place x v, .finish n])
    | .commit sl t => did (p.commit sl t)
    | .lateEnd sl l => own (p, changeSlot p sl fun s => { s with late := some l, reserved := 0 })
    | .deadlines run => did (examineDeadlines p run)
    | .teardownDone n => did (p.setLane n fun l => { l with teardownDue := false })
    | .lapseAsk n => did (p.setLane n fun l => { l with releaseDue := true, teardownDue := true })
    | .fetched taken => did { p with tender := p.tender.settleFetch taken }
    | .verdict v => did { p with tender := p.tender.settleHead v }
    | .redeemLog n i minute => takeFreeEntry p n (redeemDraft p n i) (redeemVoucher p n i minute)
    | .clearWords k => takeClear p k
    | .rebuild _ _ => own (rebuildFree p, allCountWords ++ [.directoryEnd])
    | .directoryEnd => did { p with setup := { p.setup with work := .ended } }
    | .askStart d => takeJobRequest p d .approved Shadow.jobStarted
    | .askProgress d taken first => takeJobRequest p d .printing fun s => s.progressed taken first
    | .askDone d => takeJobRequest p d .printing fun s => s.ended .done s.reserved
    | .askHalt sl => askOrder p (changeSlot p sl fun s => s.ended .printHalted s.reserved)
    | .sideIdle d => own (sideToIdle p d)
    | .fill d => takeFill p d
    | .setPart st => did { p with setup := { p.setup with part := st } }
    | .initLoad => if p.withdrawing then none else did (initLoad p)
    | .initLog => own (initLog p)
    | .initSlots k => own (p, initSlots p k)
    | .initLanes => own (initLanes p)
    | .clockStart => own (startClock p)
    | .enterSweeping => did (enterSweeping p)
    | .withdrawAsk n =>
      if slotsBusy p then ask p .order (p.handRefusal n .busy, [])
      else ask p .order (withdrawNow p, []) (withdrawActs n)
    | .withdraw b => if p.decidingBeside b then none else did (takeWithdrawal p b)
    | .seatRead _ | .priceRead _ | .showRead _ _ => none

/-! ### Decisions -/

/-- Acts that always wait for a command of their own: a lane interface's refusal (REFUSAL) and a side's progress
(PROGRESS_REQUEST). -/
def Act.ownRow : Act → Bool
  | .refusal _ _ _ | .askProgress _ _ _ => true
  | _ => false

/-- Acts that, in a decision taken in parts, wait for the command of their row. -/
def Act.suspends (p : Part) : Act → Bool
  | .flag _ _ | .showChange | .handBack _ | .writeReserved _ | .editLog _ _ _ _ | .redeemLog _ _ _
  | .retireLog _ _ | .closeLog _ | .reprintLog _ _ _ _ _ | .closeHolds _ | .retireHolds _ _ | .pend _ | .sale _
  | .returnSeats _ | .drop _ | .issue _ | .returnVouchers _ | .retireVouchers _ | .handoff _ _ => true
  | .closeReserve sl _ => (p.slot sl).voucherCount != 0
  | _ => false

/-- What the engine does after an act of block `b`: the acts that take its place, then the asked block's decision
and the blocks handed more to do, each driven by `run`. -/
def Took.carry (t : Took) (b : Block) (parts : Bool) (run : Block → Part → Part) : Part :=
  let p := t.part.setTask b ⟨t.acts ++ (t.part.task b).acts, parts⟩
  let q := match t.started with
    | none => p
    | some (target, acts) => run target (p.setTask target ⟨acts, parts⟩)
  t.kicks.foldl (fun q k => run k q) q

/-- Block `b` carries out its acts until none is left or one waits. -/
def drive : Nat → Block → Part → Part
  | 0, b, p => if p.busy b then p.waits b else p
  | n + 1, b, p =>
    match p.task b with
    | ⟨[], _⟩ => p
    | ⟨a :: rest, parts⟩ =>
      if a.ownRow || (parts && a.suspends p) then p
      else match take (p.setTask b ⟨rest, parts⟩) a with
        | none => p.waits b
        | some t => drive n b (t.carry b parts (drive n))

/-- Enough for every decision: more acts than a full block fill, the longest that no placement stops. -/
def fuel : Nat := 4096

/-- The block carries out what it can. -/
def run (b : Block) (p : Part) : Part := drive fuel b p

/-- The free block takes a request at a pace, and goes on with its acts. -/
def decideAt (b : Block) (pace : Pace) (d : Decided) : Part := run b (d.1.startAt b pace d.2)

/-- The free block takes a request, and goes on with its acts. -/
def decideNow (b : Block) (d : Decided) : Part := decideAt b .whole d

/-- The block is handed acts to carry out after what it is doing now. -/
def hand (b : Block) (acts : List Act) (p : Part) : Part := if acts.isEmpty then p else run b (p.post b acts)

/-- The block no longer waits. -/
def Part.unwait (p : Part) (b : Block) : Part := { p with waiters := p.waiters.erase b }

/-- The block carries out its next act, if it is one of these and does not wait, and goes on. -/
def answer (b : Block) (which : Act → Bool) (p : Part) : Part :=
  match p.task b with
  | ⟨[], _⟩ => p
  | ⟨a :: rest, parts⟩ =>
    if which a then
      match take (p.setTask b ⟨rest, parts⟩) a with
      | some t => run b ((t.carry b parts run).unwait b)
      | none => p
    else p

/-- A read act of the block goes on with the word that the memory port delivers. -/
def feed (b : Block) (v : Word) (p : Part) : Part :=
  match p.task b with
  | ⟨[], _⟩ => p
  | ⟨a :: rest, parts⟩ =>
    run b (((takeRead (p.setTask b ⟨rest, parts⟩) v a).carry b parts run).unwait b)

/-- A waiting block tries its next act again. -/
def wake (p : Part) (b : Block) : Part :=
  match p.task b with
  | ⟨[], _⟩ => p.unwait b
  | ⟨a :: rest, parts⟩ =>
    match take (p.setTask b ⟨rest, parts⟩) a with
    | some _ => run b (p.unwait b)
    | none => p

/-- Passes over the waiting blocks, in the order in which they first waited. -/
def settleFor : Nat → Part → Part
  | 0, p => p
  | n + 1, p => settleFor n (p.waiters.foldl wake p)

/-- The blocks that wait go on as far as they can: what one of them does may free another. -/
def settle (p : Part) : Part := settleFor p.waiters.length p

end Sys2Proof.Machine
end

