-- ==== Sys2Proof/Machine/Port.lean ====
section
/-! DEFINITION. The memory port and its arbiter (R26, R50, R60 to R65), and how a command's effect becomes a step. -/

namespace Sys2Proof.Machine

/-! ### Steps -/

/-- The outcomes of `exec`. -/
abbrev Result := Host.Outcome State Fault Refusal

/-- A command that changes the part only; then the blocks that wait go on as far as they can. -/
def onPart (f : Part → Part) (s : State) : Result := .next { s with part := settle (f s.part) }

/-- A command that uses the memory port. -/
def onPort (f : Memory → Part → Memory × Part) (s : State) : Result :=
  let r := f s.mem s.part
  .next { s with mem := r.1, part := settle r.2 }

/-! ### What the requesters ask for (R60) -/

/-- The lane whose cell the hold unit is reading (R26). -/
def Part.seatReading (p : Part) : Option Lane :=
  match (p.task .hold).acts with
  | .seatRead n :: _ => some n
  | _ => none

/-- The word that a block's next act reads. -/
def Part.headRead (p : Part) (b : Block) : Option Addr :=
  match (p.task b).acts with
  | a :: _ => readAddr p a
  | [] => none

/-- The word that a requester needs; the drain needs none. -/
def Part.need (p : Part) : Requester → Option Addr
  | .lane n =>
    if p.resetLow then none
    else if p.seatReading = some n then p.headRead .hold
    else (p.laneRead n).or ((p.passedWrite n).map (·.1))
  | .drain => none
  | .printReader => p.spoolAsk.map (·.2.2)
  | .sweepReader =>
    (p.headRead .setup).or ((p.headRead .directory).or (p.sweepNext.map fun c => p.seatAddr c.showNo c.seat))

/-- Is the requester asking for a grant? A word that is queued needs none (R65). -/
def Part.asking (p : Part) : Requester → Bool
  | .drain => !p.queue.isEmpty
  | r => match p.need r with
    | some a => (queueFind p.queue a).isNone
    | none => false

/-- The asking requester that stands first in the rotation order (R60). -/
def Part.firstAsker (p : Part) : Option Requester := p.rotation.find? p.asking

/-! ### Grants and forwarded reads -/

/-- The word read goes to the requester that needed it. -/
def deliver (r : Requester) (v : Word) (p : Part) : Part :=
  match r with
  | .lane n => if p.seatReading = some n then feed .hold v p else p.finishRead n v
  | .drain => p
  | .printReader =>
    match p.spoolAsk with
    | some (d, k, _) => run (.side d) ((deliverSpool p d k v).unwait (.side d))
    | none => p
  | .sweepReader =>
    if (p.headRead .setup).isSome then feed .setup v p
    else if (p.headRead .directory).isSome then feed .directory v p
    else match p.sweepNext with
      | some c => decideNow .sweep (sweepCell p c v)
      | none => p

/-- The granted requester moves to the back of the order (R60). -/
def Part.rotate (p : Part) (r : Requester) : Part := { p with rotation := p.rotation.erase r ++ [r] }

/-- One grant: one read or one write (R60, R64, R65). -/
def grantTo (r : Requester) (m : Memory) (p : Part) : Memory × Part :=
  let p := p.rotate r
  match r with
  | .drain =>
    match p.queue with
    | (a, v) :: rest => (m.write a.toNat v, { p with queue := rest })
    | [] => (m, p)
  | .lane n =>
    match p.passedWrite n with
    | some (a, v) => (m.write a.toNat v, p.passDone n a v)
    | none =>
      match p.need r with
      | some a => (m, deliver r (m.read a.toNat) p)
      | none => (m, p)
  | r =>
    match p.need r with
    | some a => (m, deliver r (m.read a.toNat) p)
    | none => (m, p)

/-- The arbiter gives one grant, if a requester asks (R60). -/
def portGrant (m : Memory) (p : Part) : Memory × Part :=
  match p.firstAsker with
  | some r => grantTo r m p
  | none => (m, p)

/-- What a requester needs is met from the queue: a read is answered from the entry, a passed write coalesces
into it (R64, R65). -/
def forward (r : Requester) (v : Word) (p : Part) : Part :=
  match r with
  | .lane n =>
    match p.passedWrite n with
    | some (a, w) => Part.passDone { p with queue := queueReplace p.queue a w } n a w
    | none => deliver r v p
  | r => deliver r v p

/-- One requester is served: from the queue, or by a grant if its turn has come; else it waits. -/
def serve (r : Requester) (m : Memory) (p : Part) : Memory × Part :=
  match p.need r with
  | none => (m, p)
  | some a =>
    match queueFind p.queue a with
    | some v => (m, forward r v p)
    | none => if p.firstAsker = some r then grantTo r m p else (m, p)

end Sys2Proof.Machine
end

