-- ==== Sys2Proof/Machine/LaneWrites.lean ====
section
/-! DEFINITION. The commands of lane accesses, of the memory port, and the writes that the foyer clock, the log
writer, the attention unit and the lane interface decide. -/

namespace Sys2Proof.Machine

/-! ### Lane writes at their owning block (R51, R54) -/

/-- The write that lane `n` presents, undecided, goes to a decision by its treatment. -/
def onWrite (n : Lane) (f : Addr → Word → Treatment → Part → Part) (p : Part) : Part :=
  match p.laneWrite n with
  | some (a, v) => f a v (p.treatment n a) p
  | none => p

/-- The owning block, once it is free, takes or refuses the write of lane `n` (R51). -/
def decideLane (b : Block) (pace : Pace) (n : Lane) (p : Part) (r : Except Reason Decided) : Part :=
  if p.busy b then p
  else match r with
    | .error e => p.handRefusal n e
    | .ok (q, acts) => decideAt b pace (q.markDecided n, acts)

/-- A decision behind the gates of R57. -/
def gated (p : Part) (n : Lane) (r : Except Reason Decided) : Except Reason Decided :=
  match supervisorGate p n with
  | some e => .error e
  | none => r

/-- A refusal, or a decision. -/
def orRefuse (e : Option Reason) (d : Decided) : Except Reason Decided :=
  match e with
  | some e => .error e
  | none => .ok d

/-- A taken write that reaches memory as written, and completes. -/
def asWritten (n : Lane) (a : Addr) (v : Word) : List Act := [.place a v, .finish n]

/-! ### Accesses and the port (R49, R50, R60, R64, R65) -/

/-- A lane bus presents an access (R49); none while WAITn is asserted. -/
def beginAccess (n : Lane) (a : Addr) (write : Option Word) (p : Part) : Part :=
  if p.wait n then p else p.setLane n fun l => { l with access := some ⟨a, write, false, false⟩ }

/-- ACCESS_BEGIN (R49, R169). -/
def execAccessBegin (n : Lane) (a : Addr) (write : Option Word) (s : State) : Result :=
  onPart (beginAccess n a write) s

/-- LANE_READ (R50): from the queue, or in the lane's grant. -/
def execLaneRead (n : Lane) (s : State) : Result :=
  onPort (fun m p => if (p.laneRead n).isSome then serve (.lane n) m p else (m, p)) s

/-- PASSED_WRITE (R51, R64): coalesced into a queued entry, or performed in the lane's grant. -/
def execPassedWrite (n : Lane) (s : State) : Result :=
  onPort (fun m p => if (p.passedWrite n).isSome then serve (.lane n) m p else (m, p)) s

/-- OWNED_WRITE (R55): refused READ_ONLY. -/
def execOwnedWrite (n : Lane) (s : State) : Result :=
  onPart (onWrite n fun _ _ t p => if t = .readOnly then p.handRefusal n .readOnly else p) s

/-- PORT_GRANT (R60). -/
def execPortGrant (s : State) : Result := onPort portGrant s

/-- UPDATE_DRAIN (R65), when the drain's turn has come. -/
def execUpdateDrain (s : State) : Result :=
  onPort (fun m p => if p.firstAsker = some .drain then grantTo .drain m p else (m, p)) s

/-! ### The clock set (R5, R6) -/

/-- Sets the pending day. -/
def Part.setPendingDay (p : Part) (d : Option Word) : Part := { p with clock := { p.clock with pendingDay := d } }

/-- A clock write's refusals that come before its own (R5). -/
def clockGate (p : Part) (n : Lane) : Option Reason :=
  (supervisorGate p n).or (if p.mode = .sweeping then some .busy else none)

/-- CLOCK_SET_DAY (R5). -/
def execClockSetDay (n : Lane) (s : State) : Result :=
  onPart (onWrite n fun a v t p =>
    if t = .clockDay then
      if p.busy .clock then p
      else match clockGate p n with
        | some e => p.handRefusal n e
        | none => decideNow .clock ((p.markDecided n).setPendingDay (some v), asWritten n a v)
    else p) s

/-- The clock after a set (R6). -/
def Clock.set (c : Clock) (day : Word) (minute : Nat) : Clock := { c with day, minute, second := 0, eighth := 0 }

/-- CLOCK_SET_MINUTE (R5, R6): the clock set, its mirror words, and the minute evaluation it asks for, which does not
wait for space for them, the model's choice (log 47). -/
def execClockSetMinute (n : Lane) (s : State) : Result :=
  onPart (onWrite n fun a v t p =>
    if t = .clockMinute then
      if p.busy .clock then p
      else match clockGate p n, p.clock.pendingDay with
        | some e, _ => p.handRefusal n e
        | none, none => p.handRefusal n .sequence
        | none, some day =>
          if 1439 < v.toNat then p.handRefusal n .badRequest
          else
            let q := p.markDecided n
            let q := { q with clock := q.clock.set day v.toNat }
            run .shows (postEvaluation (decideNow .clock (q, [.place a v] ++ mirrorSyncs ++ [.finish n])))
    else p) s

/-! ### The take index (R166) -/

/-- TAKE_WRITE. -/
def execTakeWrite (n : Lane) (s : State) : Result :=
  onPart (onWrite n fun _ v t p =>
    if t = .takeIndex then
      decideLane .log .whole n p (gated p n
        (match p.log.takeTo v.toNat with
         | some l => .ok ({ p with log := l }, [.sync (.logIndex 1), .sync (.logIndex 2), .finish n])
         | none => .error .badTake))
    else p) s

/-! ### Flag and mask words (R154, R156) -/

/-- FLAG_CLEAR. -/
def execFlagClear (n : Lane) (s : State) : Result :=
  onPart (onWrite n fun _ v t p =>
    if t = .flagWord then decideLane .attention .whole n p (.ok (clearFlags p n v)) else p) s

/-- MASK_WRITE. -/
def execMaskWrite (n : Lane) (s : State) : Result :=
  onPart (onWrite n fun _ v t p =>
    match t with
    | .maskWord m => decideLane .attention .whole n p (.ok (writeMask p n m v))
    | _ => p) s

/-! ### The lane watch (R43 to R47) -/

/-- Has the watch of the lane run out, its expiry not yet carried out (R45)? -/
def LaneIf.watchExpired (l : LaneIf) : Bool := l.watch.on && !l.lapsed && l.watch.countdown == 0

/-- The countdown restarts from the interval. -/
def Watch.restart (w : Watch) : Watch := { w with countdown := intervalSeconds w.interval }

/-- A NOTICE watch expires (R46). Its marks are set at once; its word and its flag follow what the lane interface is
still inside, a refusal not yet taken among them, the model's choice (log 50). -/
def noticeExpiry (p : Part) (n : Lane) : Part :=
  hand (.lane n) [.sync (.laneState n), .flag 0 .laneQuiet]
    (p.setLane n fun l => { l with quiet := true, watch := l.watch.restart })

/-- A LAPSE watch expires (R47). The lapse release and the slot teardown are asked for after the lane state word and
the two flags. The lane is LAPSED and its quiet mark set at once; its word, flags and requests follow what the lane
interface is still inside, a refusal not yet taken among them, the model's choice (log 50). -/
def lapseExpiry (p : Part) (n : Lane) : Part :=
  hand (.lane n) [.sync (.laneState n), .flag n .lapsed, .flag 0 .laneQuiet, .lapseAsk n]
    (p.setLane n fun l => { l with lapsed := true, quiet := true })

/-- The expiry of a watch that has run out. -/
def carryExpiry (p : Part) (n : Lane) : Part :=
  if (p.lane n).watchExpired then (if (p.lane n).watch.lapseMode then lapseExpiry p n else noticeExpiry p n) else p

/-- WATCH_NOTICE (R46). -/
def execWatchNotice (n : Lane) (s : State) : Result :=
  onPart (fun p =>
    if p.accepted ∧ (p.lane n).watchExpired ∧ (p.lane n).watch.lapseMode = false then noticeExpiry p n else p) s

/-- LAPSE (R47). -/
def execLapse (n : Lane) (s : State) : Result :=
  onPart (fun p =>
    if p.accepted ∧ (p.lane n).watchExpired ∧ (p.lane n).watch.lapseMode = true then lapseExpiry p n else p) s

/-- A heartbeat that restarts a WATCHING lane's countdown and clears its quiet mark (R43). -/
def LaneIf.refreshed (l : LaneIf) : LaneIf :=
  if l.watch.on then { l with watch := l.watch.restart, quiet := false } else l

/-- A heartbeat write's decision (R43, R44): the lane interface after a taken one. -/
def heartbeat (l : LaneIf) : Heartbeat → Except Reason LaneIf
  | .undefined => .error .badRequest
  | .enable w =>
    if l.lapsed ∨ l.watch.on then .error .watchSet
    else match w with
      | none => .error .badRequest
      | some (lapse, i) => .ok { l with watch := ⟨true, lapse, i, intervalSeconds i⟩ }
  | .refresh => if l.lapsed then .error .sequence else .ok l.refreshed
  | .rejoin =>
    if l.lapsed then
      if l.releaseDue ∨ l.teardownDue then .error .busy else .ok { l.refreshed with lapsed := false }
    else .ok l.refreshed

/-- The lane interface decides a heartbeat write, an expiry that came before it first (R45). -/
def decideHeartbeat (n : Lane) (which : Heartbeat → Bool) : Part → Part :=
  onWrite n fun a v t p =>
    if t = .heartbeat ∧ which (Heartbeat.ofWord v) then
      let p := carryExpiry p n
      decideLane (.lane n) .whole n p ((heartbeat (p.lane n) (Heartbeat.ofWord v)).map fun l =>
        let q := p.setLane n fun _ => l
        (q, [.place a v] ++ changedWords p q [.laneState n] ++ [.finish n]))
    else p

/-- Is the heartbeat an ENABLE, or a value with no defined command? -/
def Heartbeat.isEnable : Heartbeat → Bool
  | .enable _ | .undefined => true
  | _ => false

/-- ENABLE (R43). -/
def execEnable (n : Lane) (s : State) : Result := onPart (decideHeartbeat n Heartbeat.isEnable) s
/-- REFRESH (R43). -/
def execRefresh (n : Lane) (s : State) : Result := onPart (decideHeartbeat n (· == .refresh)) s
/-- REJOIN (R44). -/
def execRejoin (n : Lane) (s : State) : Result := onPart (decideHeartbeat n (· == .rejoin)) s

end Sys2Proof.Machine
end

