-- ==== Sys2Proof/Machine/ShowCommands.lean ====
section
/-! DEFINITION. The commands of shows, prices and sweeps (R9 to R18, R56, R176). -/

namespace Sys2Proof.Machine

/-- SHOW_RECORD_WRITE (R9). -/
def execShowRecordWrite (n : Lane) (s : State) : Result :=
  onPart (onWrite n fun a v t p =>
    match t with
    | .showRecord sh k =>
      decideLane .shows .whole n p (gated p n ((captureRecord (p.showAt sh) k v).map fun e =>
        (p.setShow sh fun _ => e, asWritten n a v)))
    | _ => p) s

/-- The refusal of an OPEN whose checks fail (R11): SHOW_FORM, and the state word with the form-fault mark. -/
def refuseOpen (p : Part) (n : Lane) (sh : ShowNo) : Part :=
  decideNow .shows ((p.setShow sh fun _ => ShowEntry.formFault).handRefusal n .showForm, [showWord sh])

/-- A taken or refused OPEN (R11): the sweep request follows SHOW_CHANGE. -/
def decideOpen (p : Part) (n : Lane) (sh : ShowNo) : Part :=
  match supervisorGate p n, openCommand p sh with
  | some e, _ => p.handRefusal n e
  | none, .error e => p.handRefusal n e
  | none, .ok false => refuseOpen p n sh
  | none, .ok true =>
    decideNow .shows ((p.setShow sh ShowEntry.opening).markDecided n, showActs sh ++ [.sweepAsk sh, .finish n])

/-- OPEN (R10, R11); a value that is no command is refused here. -/
def execOpen (n : Lane) (s : State) : Result :=
  onPart (onWrite n fun _ v t p =>
    match t with
    | .showCommand sh =>
      match ShowCommand.ofWord v with
      | .openShow => if p.busy .shows then p else decideOpen p n sh
      | .undefined => decideLane .shows .whole n p (gated p n (.error .badRequest))
      | _ => p
    | _ => p) s

/-- CUT (R10, R14). -/
def execCut (n : Lane) (s : State) : Result :=
  onPart (onWrite n fun _ v t p =>
    match t with
    | .showCommand sh =>
      if ShowCommand.ofWord v = .cut then
        let q := p.setShow sh fun e => { e with cut := true }
        decideLane .shows .whole n p (gated p n (orRefuse (cutCommand (p.showAt sh))
          (q, changedWords p q [.showState sh] ++ [.finish n])))
      else p
    | _ => p) s

/-- RETIRE (R10, R18). -/
def execRetire (n : Lane) (pace : Pace) (s : State) : Result :=
  onPart (onWrite n fun _ v t p =>
    match t with
    | .showCommand sh =>
      if ShowCommand.ofWord v = .retire then
        decideLane .shows pace n p (gated p n (orRefuse (retireCommand (p.showAt sh)) (p, [.retireLog n sh])))
      else p
    | _ => p) s

/-- PRICE_WRITE (R56). -/
def execPriceWrite (n : Lane) (s : State) : Result :=
  onPart (onWrite n fun a v t p =>
    match t with
    | .price k => decideLane .order .whole n p (gated p n (.ok (setPrice p k v, asWritten n a v)))
    | _ => p) s

/-- OPENING_SWEEP (R12): one cell is read and decided. -/
def execOpeningSweep (s : State) : Result :=
  onPort (fun m p =>
    if (p.headRead .setup).isNone ∧ (p.headRead .directory).isNone then serve .sweepReader m p else (m, p)) s

/-- The end of a sweep (R13): the show's state, its state word and SHOW_CHANGE. A sweep that turned a cell into QUERY
asks for QUERY_SEATS then (log 33), and is one of the ended sweeps of R176 once the request is taken. -/
def endSweep (p : Part) (c : SweepPos) : Part :=
  let q := chooseState p c.showNo
  let q := { q with sweep := { q.sweep with current := none } }
  hand .sweep ((if c.query then [.flag 0 .querySeats] else []) ++ [.sweepDone c.showNo])
    (decideNow .shows (q, showActs c.showNo))

/-- SWEEP_END (R13). -/
def execSweepEnd (s : State) : Result :=
  onPart (fun p =>
    match p.sweepEnded with
    | some c => if p.busy .shows then p else endSweep p c
    | none => p) s

end Sys2Proof.Machine
end

