-- ==== Sys2Proof/Machine/SeatCommands.lean ====
section
/-! DEFINITION. The commands of seats: claims, releases and edits, and the hold unit's own events and requests
(R16, R21, R24 to R41, R47). -/

namespace Sys2Proof.Machine

/-! ### Claims, releases and edits -/

/-- The hold unit, once it is free, takes a CLAIM or EDIT write (R25), and reads the cell in the lane's grant or
from the queue (R26). In SWEEPING the write is refused SWEEPING, before any block (R24, R59); an edit value of
lanes 1 to 5 is refused ROLE (R24). -/
def takeSeatWrite (n : Lane) (pace : Pace) (which : Word → Bool) (m : Memory) (p : Part) : Memory × Part :=
  match p.laneWrite n with
  | none => (m, p)
  | some (a, v) =>
    if p.region a = .seat ∧ which v then
      match p.treatment n a with
      | .refuseSweeping => (m, p.handRefusal n .sweeping)
      | .seat =>
        if p.busy .hold then (m, p)
        else match seatChecks p n a v with
          | .error r => (m, p.handRefusal n r)
          | .ok _ =>
            let q := decideAt .hold pace (p.markDecided n, [.seatRead n])
            if q.seatReading = some n then serve (.lane n) m q else (m, q)
      | _ => (m, p)
    else (m, p)

/-- Is the value a claim value with a request other than FREE? -/
def isClaim (v : Word) : Bool := let c := Cell.ofWord v; !c.edit && c.state != cellFree
/-- Is the value a claim value with the request FREE? -/
def isRelease (v : Word) : Bool := let c := Cell.ofWord v; !c.edit && c.state == cellFree
/-- Is the value an edit value? -/
def isEdit (v : Word) : Bool := (Cell.ofWord v).edit

/-- CLAIM (R25 to R28). -/
def execClaim (n : Lane) (s : State) : Result := onPort (takeSeatWrite n .whole isClaim) s
/-- SEAT_RELEASE (R25, R26, R30). -/
def execSeatRelease (n : Lane) (s : State) : Result := onPort (takeSeatWrite n .whole isRelease) s
/-- EDIT (R25, R26, R39 to R41). -/
def execEdit (n : Lane) (pace : Pace) (s : State) : Result := onPort (takeSeatWrite n pace isEdit) s

/-! ### The hold unit's events (R31, R32, R34) -/

/-- A request that the hold unit takes while it is free, in SWEEPING or RUNNING. -/
def onHold (r : Part → Option Decided) (p : Part) : Part :=
  if p.accepted ∧ p.busy .hold = false then
    match r p with
    | some d => decideNow .hold d
    | none => p
  else p

/-- EXPIRY_REMOVAL (R31): within the round of a second event, the head entry whose second has been reached. -/
def execExpiryRemoval (s : State) : Result :=
  onPart (onHold fun p => if p.hold.round then p.dueHold.map (expireHold p) else none) s

/-- WARNING_PASS (R32): the end of the round. -/
def execWarningPass (s : State) : Result :=
  onPart (onHold fun p => if p.hold.round ∧ p.dueHold = none then some (warningPass p) else none) s

/-- DARK_RELEASE (R16, R34). -/
def execDarkRelease (sh : ShowNo) (s : State) : Result :=
  onPart (onHold fun p =>
    if p.hold.darkDue.contains sh then
      some (bulkRelease { p with hold := { p.hold with darkDue := p.hold.darkDue.erase sh } } fun h => h.showNo == sh)
    else none) s

/-- LAPSE_RELEASE (R34, R47). It counts as carried out (R44) when its last word is placed, the model's choice (log 52). -/
def execLapseRelease (n : Lane) (s : State) : Result :=
  onPart (onHold fun p =>
    if (p.lane n).releaseDue then
      let (q, acts) := bulkRelease p fun h => h.lane == n
      some (q, acts ++ [.releaseDone n])
    else none) s

/-! ### Requests to the hold unit (R18, R35 to R38, R79) -/

/-- HOLD_QUESTION: of a close, asked by the order unit, or of a RETIRE, asked by the show table. -/
def execHoldQuestion (asker : Block) (s : State) : Result :=
  onPart (answer asker fun a => match a with | .closeHolds _ | .retireHolds _ _ => true | _ => false) s

/-- PEND_REQUEST (R35). -/
def execPendRequest (s : State) : Result :=
  onPart (answer .order fun a => match a with | .pend _ => true | _ => false) s

/-- SALE_REQUEST (R36). -/
def execSaleRequest (s : State) : Result :=
  onPart (answer .order fun a => match a with | .sale _ => true | _ => false) s

/-- RETURN_REQUEST (R37). -/
def execReturnRequest (s : State) : Result :=
  onPart (answer .order fun a => match a with | .returnSeats _ => true | _ => false) s

/-- DROP_REQUEST (R38). -/
def execDropRequest (s : State) : Result :=
  onPart (answer .order fun a => match a with | .drop _ => true | _ => false) s

end Sys2Proof.Machine
end

