-- ==== Sys2Proof/Machine/OrderCommands.lean ====
section
/-! DEFINITION. The commands of order slots and vouchers (R48, R70 to R90, R136 to R147). -/

namespace Sys2Proof.Machine

/-! ### Assembly (R70, R72) -/

/-- ORDER_RECORD_WRITE (R70). -/
def execOrderRecordWrite (n : Lane) (s : State) : Result :=
  onPart (onWrite n fun a v t p =>
    match t with
    | .record sl k =>
      decideLane .order .whole n p ((recordWrite p n sl k v).map fun f =>
        (p, [.place a v] ++ changeSlot p sl f ++ [.finish n]))
    | _ => p) s

/-- SPOOL_WRITE (R72). -/
def execSpoolWrite (n : Lane) (s : State) : Result :=
  onPart (onWrite n fun a v t p =>
    match t with
    | .spool sl => decideLane .order .whole n p (orRefuse (spoolChecks p n sl) (p, asWritten n a v))
    | _ => p) s

/-! ### Control commands (R73) -/

/-- A control write whose command is this row's: the six checks, then the command's decision; a taken one reaches
memory as written. -/
def onControl (n : Lane) (pace : Pace) (which : Control → Bool)
    (decision : Part → SlotNo → Control → Addr → Word → Except Reason Decided) : Part → Part :=
  onWrite n fun a v t p =>
    match t with
    | .control sl =>
      let c := Control.ofWord v
      if which c then
        decideLane .order pace n p (match controlChecks p n sl c with
          | some e => .error e
          | none => decision p sl c a v)
      else p
    | _ => p

/-- CLOSE (R78 to R82); a value that is no command is refused here. -/
def execClose (n : Lane) (pace : Pace) (s : State) : Result :=
  onPart (onControl n pace (fun c => c == .close || c == .undefined) fun p sl _ a v =>
    .ok (p, closeActs p sl ++ asWritten n a v)) s

/-- CANCEL (R74, R88). -/
def execCancel (n : Lane) (pace : Pace) (s : State) : Result :=
  onPart (onControl n pace (· == .cancel) fun p sl _ a v =>
    .ok (p.leaveQueue .cancelled sl, nonApprovalActs sl (p.slot sl) .cancelled false ++ asWritten n a v)) s

/-- RELEASE (R75). -/
def execRelease (n : Lane) (pace : Pace) (s : State) : Result :=
  onPart (onControl n pace (· == .release) fun p sl _ a v =>
    .ok (p, (if (p.slot sl).reserved = 0 then [] else [.handBack (p.slot sl).reserved])
      ++ [.emptySlot sl] ++ asWritten n a v)) s

/-- Is the command a REPRINT? -/
def Control.isReprint : Control → Bool
  | .reprint _ => true
  | _ => false

/-- The printer choice of a command. -/
def Control.choice : Control → Choice
  | .reprint c => c
  | _ => .preferred

/-- REPRINT (R76). -/
def execReprint (n : Lane) (pace : Pace) (s : State) : Result :=
  onPart (onControl n pace Control.isReprint fun p sl c a v =>
    if 2 ≤ (p.slot sl).reprints then .error .printLimit else .ok (p, [.reprintLog n sl c.choice a v])) s

/-- FORCE_DONE (R77). -/
def execForceDone (n : Lane) (pace : Pace) (s : State) : Result :=
  onPart (onControl n pace (· == .forceDone) fun p sl _ a v =>
    .ok (p, [.endSlot sl .done (p.slot sl).reserved (p.slot sl)] ++ asWritten n a v)) s

/-! ### The teardown of a lapsed lane (R48) -/

/-- SLOT_TEARDOWN. -/
def execSlotTeardown (n : Lane) (pace : Pace) (s : State) : Result :=
  onPart (fun p =>
    if p.accepted ∧ (p.lane n).teardownDue ∧ p.busy .order = false then decideAt .order pace (teardown p n)
    else p) s

/-! ### Redemption (R143, R144) -/

/-- REDEEM; in SWEEPING refused SWEEPING before any other check. The minute of day of the redemption record is that of
the clock when the directory takes the write, with which check 5 is made (log 35). -/
def execRedeem (n : Lane) (pace : Pace) (s : State) : Result :=
  onPart (onWrite n fun a v t p =>
    match t with
    | .redeem i =>
      decideLane .directory pace n p (orRefuse (redeemChecks p n i v) (p, [.redeemLog n i p.clock.minute]))
    | .refuseSweeping => if p.region a = .seat then p else p.handRefusal n .sweeping
    | _ => p) s

/-! ### Requests to the voucher directory (R140 to R142, R147) -/

/-- VOUCHER_RESERVE (R140), with which the close ends. -/
def execVoucherReserve (s : State) : Result :=
  onPart (answer .order fun a => match a with | .closeReserve _ _ => true | _ => false) s

/-- VOUCHER_ISSUE (R141). -/
def execVoucherIssue (s : State) : Result :=
  onPart (answer .order fun a => match a with | .issue _ => true | _ => false) s

/-- VOUCHER_RETURN (R142). -/
def execVoucherReturn (s : State) : Result :=
  onPart (answer .order fun a => match a with | .returnVouchers _ => true | _ => false) s

/-- VOUCHER_RETIRE (R147). -/
def execVoucherRetire (s : State) : Result :=
  onPart (answer .shows fun a => match a with | .retireVouchers _ => true | _ => false) s

/-! ### Requests to the log writer and the attention unit (R152, R153, R159, R162) -/

/-- LOG_RESERVE: two entries for a close, one for a RETIRE. -/
def execLogReserve (asker : Block) (s : State) : Result :=
  onPart (answer asker fun a => match a with | .closeLog _ | .retireLog _ _ => true | _ => false) s

/-- LOG_HAND_BACK. -/
def execLogHandBack (asker : Block) (s : State) : Result :=
  onPart (answer asker fun a => match a with | .handBack _ => true | _ => false) s

/-- LOG_WRITE_RESERVED. -/
def execLogWriteReserved (asker : Block) (s : State) : Result :=
  onPart (answer asker fun a => match a with | .writeReserved _ => true | _ => false) s

/-- LOG_WRITE_FREE: for a redemption, a REPRINT, a refund or a QUERY resolution. -/
def execLogWriteFree (asker : Block) (s : State) : Result :=
  onPart (answer asker fun a =>
    match a with
    | .redeemLog _ _ _ | .reprintLog _ _ _ _ _ | .editLog _ _ _ _ => true
    | _ => false) s

/-- SET_REQUEST (R153): a flag for a lane, or SHOW_CHANGE for all six. -/
def execSetRequest (asker : Block) (s : State) : Result :=
  onPart (answer asker fun a => match a with | .flag _ _ | .showChange => true | _ => false) s

/-- REFUSAL (R159). -/
def execRefusal (n : Lane) (s : State) : Result :=
  onPart (answer (.lane n) fun a => match a with | .refusal _ _ _ => true | _ => false) s

end Sys2Proof.Machine
end

