-- ==== Sys2Proof/Machine/SetupCommands.lean ====
section
/-! DEFINITION. The commands of the setup controller, of the directory's work at acceptance, of power and RESET,
and of the foyer clock (R1 to R3, R148 to R150, R167 to R179). -/

namespace Sys2Proof.Machine

/-! ### The header (R58, R170 to R172, R178) -/

/-- HEADER_WORD_WRITE: captured and passed in TRANSPARENT (R170), refused in SWEEPING and RUNNING (R172). -/
def execHeaderWordWrite (n : Lane) (s : State) : Result :=
  onPort (fun m p =>
    match p.laneWrite n with
    | none => (m, p)
    | some (a, _) =>
      match p.treatment n a with
      | .capture _ => serve (.lane n) m p
      | .headerWord => (m, decideLane .setup .whole n p (gated p n (.error .busy)))
      | _ => (m, p)) s

/-- A write to 01Fh in TRANSPARENT (R171): its value reaches memory; ACCEPT by lane 0 is decided. -/
def closeHeader (p : Part) (n : Lane) (a : Addr) (v : Word) : Part :=
  if p.busy .setup then p
  else if n = 0 ∧ v = wordAccept then
    let (q, acts) := acceptHeader p
    decideNow .setup (q.markDecided n, acts)
  else decideNow .setup (p.markDecided n, asWritten n a v)

/-- ACCEPT (R171 to R174): every write to 01Fh but WITHDRAW. -/
def execAccept (n : Lane) (s : State) : Result :=
  onPart (onWrite n fun a v t p =>
    if t = .headerClose ∧ v ≠ wordWithdraw then
      if p.accepted then
        decideLane .setup .whole n p (gated p n (.error (if v = wordAccept then .busy else .badRequest)))
      else closeHeader p n a v
    else p) s

/-- Is a sweep in progress or waiting, because a show is OPENING (R178)? A show that is OPENING before its request
has been handed to the sweep engine counts (log 22). -/
def Part.sweepPending (p : Part) : Bool :=
  p.sweep.current.isSome || !p.sweep.requests.isEmpty
    || (List.finRange 16).any fun sh => (p.showAt sh).state == .opening

/-- WITHDRAW (R171, R172, R178). -/
def execWithdraw (n : Lane) (s : State) : Result :=
  onPart (onWrite n fun a v t p =>
    if t = .headerClose ∧ v = wordWithdraw then
      if p.accepted then
        decideLane .setup .whole n p (gated p n
          (if p.mode = .sweeping ∨ p.sweepPending then .error .busy else .ok (p, [.withdrawAsk n])))
      else closeHeader p n a v
    else p) s

/-! ### The directory's work and the end of SWEEPING (R148, R149, R176) -/

/-- The directory takes up the work that the setup controller asked of it. -/
def startWork (keep : Bool) (p : Part) : Part :=
  if p.setup.work = .asked keep ∧ p.busy .directory = false then
    let q := { p with setup := { p.setup with work := .running } }
    decideNow .directory (if keep then startRebuild q else startClear q)
  else p

/-- VOUCHER_CLEAR (R148). -/
def execVoucherClear (s : State) : Result := onPart (startWork false) s

/-- VOUCHER_REBUILD (R149, R150): the rebuild starts, or reads its next cell word. -/
def execVoucherRebuild (s : State) : Result :=
  onPort (fun m p =>
    if p.setup.work = .asked true then (m, startWork true p)
    else if (p.headRead .setup).isNone ∧ (p.headRead .directory).isSome then serve .sweepReader m p
    else (m, p)) s

/-- ENTER_RUNNING (R176). -/
def execEnterRunning (s : State) : Result :=
  onPart (fun p =>
    if p.mode = .sweeping ∧ p.setup.work = .ended ∧ p.setup.sweepsLeft = [] ∧ p.busy .setup = false then
      decideNow .setup ({ p with setup := { p.setup with part := .running } }, [.sync .partState, .flag 0 .setupState])
    else p) s

/-! ### Power and RESET (R52, R111, R168, R169) -/

/-- The lane interface of a reset: the access is ended; a read not yet answered returns FFFFh (R52). -/
def LaneIf.afterReset (l : LaneIf) : LaneIf :=
  let dout := match l.access with
    | some ⟨_, none, _, _⟩ => some 0xFFFF
    | _ => l.dout
  { LaneIf.initial with dout }

/-- The part after a reset (R168): what outlives it is the lanes' data lines and the transaction in progress,
now served with FFh (R111). -/
def Part.afterReset (p : Part) (cause : ResetCause) (low : Bool) : Part :=
  { Part.initial cause with
    resetLow := low
    lanes := p.lanes.map LaneIf.afterReset
    tender := { TenderLink.initial with shift := p.tender.shift.map Transaction.afterReset, sent := p.tender.sent } }

/-- POWER_ON (R168): the contents of memory are undefined. -/
def execPowerOn (s : State) : Result :=
  .next { s with
    mem := Memory.ofCells (Config.powerOnCells s.powerOns)
    powerOns := s.powerOns + 1
    part := s.part.afterReset .powerOn s.part.resetLow }

/-- RESET_PIN (R168): RESET falls; nothing more happens while it is low already. -/
def execResetPin (s : State) : Result :=
  .next (if s.part.resetLow then s else { s with part := s.part.afterReset .resetPin true })

/-- RESET_RELEASE (R169): the accesses held are decided in TRANSPARENT from now on. -/
def execResetRelease (s : State) : Result := onPart (fun p => { p with resetLow := false }) s

/-! ### The foyer clock (R1 to R3, R7) -/

/-- Does the clock emit events (R1)? R4 has it emit them from its start on, which step 8 of R174 makes while the part is
still in CHECKING, where R1 has it emit none. A started clock waits for SWEEPING, the model's choice (log 51). -/
def Part.clockRuns (p : Part) : Bool := p.clock.started && p.accepted

/-- The clock's counts after a second event, and whether it carries into a minute (R2, R3). -/
def Clock.nextSecond (c : Clock) : Clock × Bool :=
  let c := { c with run := c.run + 1 }
  if c.second < 59 then ({ c with second := c.second + 1 }, false)
  else if c.minute < 1439 then ({ c with second := 0, minute := c.minute + 1 }, true)
  else ({ c with second := 0, minute := 0, day := c.day + 1 }, true)

/-- The mirror words of a second event (R7): those still waiting carry the new counts when they are placed, and
the others follow. -/
def postMirror (p : Part) : Part :=
  run .clock (p.post .clock (mirrorSyncs.filter fun a => !(p.task .clock).acts.contains a))

/-- A watch counts down (R45); an expiry not yet carried out comes first. -/
def countWatch (p : Part) (n : Lane) : Part :=
  let q := carryExpiry p n
  q.setLane n fun l =>
    if l.watch.on ∧ !l.lapsed then { l with watch := { l.watch with countdown := l.watch.countdown - 1 } } else l

/-- The second event's check of tender deadlines (R69, R107): at once by the free order unit, and at the end of its
decision by one that is inside one, before any other request, the model's choice (log 13). -/
def askDeadlines (p : Part) : Part :=
  if p.busy .order then p.post .order [.deadlines p.clock.run] else examineDeadlines p p.clock.run

/-- The polls of FAULTED and OFFLINE sides fall due (R131). -/
def setPolls (p : Part) : Part :=
  (List.finRange 2).foldl (fun q d =>
    if ((q.sideAt d).state = .faulted ∨ (q.sideAt d).state = .offline) ∧ !q.exchanging d then
      q.setSide d fun s => { s with pollDue := true }
    else q) p

/-- The examination of the quiet timer that a second event asked for (R109), if it is still left. R2 lets it come before
or after what the other blocks take of that event, a slot teardown among them; when it comes is the model's choice
(log 12). -/
def carryExamination (p : Part) : Part :=
  if p.tender.examine then
    let (q, acts) := examineQuiet p
    hand .tender acts q
  else p

/-- A second event at the blocks that use it (R7, R31, R45, R107, R109, R131), which R2 lets take it in either order.
The model's order is deadline check, polls, quiet examination, lane watches, mirror words (log 47). A round that is
still going on, its warning pass included, is not begun again (log 38). The expiries still left from the event before
(R45) are carried out in ascending lane number, the model's choice (log 11). -/
def secondUsers (p : Part) : Part :=
  let p := { p with hold := { p.hold with round := true } }
  let p := setPolls (askDeadlines p)
  let p := carryExamination p
  let p := { p with tender := { p.tender with examine := true } }
  let p := (List.finRange 6).foldl countWatch p
  postMirror p

/-- A second event; a minute event follows when it carries (R2, R15). All counts advance first, minute and day of a carry
among them, so the mirror words of the second show the new minute; then come the second's users, and after them the
minute evaluation: the model's choice of the order of the two events (log 47). -/
def secondEvent (p : Part) : Part :=
  let (c, minute) := p.clock.nextSecond
  let q := secondUsers { p with clock := c }
  if minute then run .shows (postEvaluation q) else q

/-- A block held for retry is made ready again (R128). -/
def Side.retryReady (s : Side) : Side := if s.stage = .held then { s with stage := .ready } else s

/-- An eighth event (R2, R128). -/
def eighthEvent (p : Part) : Part :=
  let q := (p.setSide 0 Side.retryReady).setSide 1 Side.retryReady
  if q.clock.eighth < 7 then { q with clock := { q.clock with eighth := q.clock.eighth + 1 } }
  else secondEvent { q with clock := { q.clock with eighth := 0 } }

/-- The prescaler returns to 0 (R1). -/
def prescalerReturn (p : Part) : Part :=
  let q := { p with clock := { p.clock with prescaler := 0 } }
  if q.clockRuns then eighthEvent q else q

/-- `k` eighth events. Between two of them the waiting blocks go on; after the last they do at the command's end. -/
def eighthEvents : Nat → Part → Part
  | 0, p => p
  | 1, p => prescalerReturn p
  | k + 2, p => eighthEvents (k + 1) (settle (prescalerReturn p))

/-- The eighth events up to the next second event. -/
def Clock.toSecond (c : Clock) : Nat := 8 - c.eighth
/-- The eighth events up to the next minute event. -/
def Clock.toMinute (c : Clock) : Nat := (59 - c.second) * 8 + (8 - c.eighth)

/-- EIGHTH_EVENT (R1). -/
def execEighthEvent (s : State) : Result := onPart prescalerReturn s

/-- SECOND_EVENT (R2): the eighth events up to the one that carries; none while the clock emits none. -/
def execSecondEvent (s : State) : Result :=
  onPart (fun p => if p.clockRuns then eighthEvents p.clock.toSecond p else p) s

/-- MINUTE_EVENT (R2): the eighth events up to the one that carries into a minute; none while the clock emits
none. -/
def execMinuteEvent (s : State) : Result :=
  onPart (fun p => if p.clockRuns then eighthEvents p.clock.toMinute p else p) s

/-- One rising edge of FCLK (R1). -/
def clockEdge (p : Part) : Part :=
  if p.clock.prescaler < 4095 then { p with clock := { p.clock with prescaler := p.clock.prescaler + 1 } }
  else prescalerReturn p

end Sys2Proof.Machine
end

