-- ==== Sys2Proof/Machine/LinkCommands.lean ====
section
/-! DEFINITION. The commands of the tender link and of printing (R84, R85, R91 to R134). -/

namespace Sys2Proof.Machine

/-! ### Transactions (R91 to R101) -/

/-- TRANSACTION_START. An examination of the quiet timer that is still to be carried out comes first, with TSEL as
the second event found it (R109, log 12). -/
def execTransactionStart (s : State) : Result :=
  onPart (fun p => if p.tender.shift.isSome then p else startTransaction (carryExamination p)) s
/-- TRANSACTION_END, an examination that is still to be carried out first. -/
def execTransactionEnd (s : State) : Result :=
  onPart (fun p => endTransaction (if p.tender.shift.isSome then carryExamination p else p)) s
/-- POLL, and every command byte that is none of the four (R93). -/
def execPoll (command : Byte) (clk : Clocking) (s : State) : Result := onPart (fun p => clockLink p command clk) s
/-- FETCH (R97, R99). -/
def execFetch (clk : Clocking) (s : State) : Result := onPart (fun p => clockLink p commandFetch clk) s
/-- REPORT (R101). -/
def execReport (clk : Clocking) (s : State) : Result := onPart (fun p => clockLink p commandReport clk) s
/-- ABANDON (R106). -/
def execAbandon (clk : Clocking) (s : State) : Result := onPart (fun p => clockLink p commandAbandon clk) s
/-- LINK_REQUEST_SETTLE (R96, R102). -/
def execLinkRequestSettle (s : State) : Result := onPart settleLink s
/-- QUIET_SPELL (R109): the tender link interface examines the last second event. -/
def execQuietSpell (s : State) : Result := onPart carryExamination s

/-! ### What the order unit takes from the link (R84, R85, R102 to R107) -/

/-- The order unit, once it is free, takes the head request that was handed to it. -/
def onHanded (pace : Pace) (acts : Part → LinkReq → Option (List Act)) (p : Part) : Part :=
  match p.tender.requests with
  | [] => p
  | r :: _ =>
    if p.tender.handed ∧ p.busy .order = false then
      match acts p r with
      | some l => decideAt .order pace (p, l)
      | none => p
    else p

/-- FETCH_TAKE (R84, R99). -/
def execFetchTake (pace : Pace) (s : State) : Result :=
  onPart (onHanded pace fun p r =>
    match r.kind, r.slotNo with
    | .fetch deadline, some sl => some (fetchActs p sl r.seq deadline)
    | _, _ => none) s

/-- The order unit's class of a handed result (R102), with its slot, outcome and auth code. -/
def handedResult (p : Part) (r : LinkReq) : Option (SlotNo × Outcome × Auth × ResultClass) :=
  match r.kind, r.slotNo with
  | .result o auth, some sl => (Outcome.ofByte o).map fun x => (sl, x, auth, classifySlot (p.slot sl) r.seq)
  | _, _ => none

/-- TAKEN_RESULT (R103): TENDERING gives TAKEN; a slot that has changed since gives UNKNOWN or STALE. -/
def execTakenResult (pace : Pace) (s : State) : Result :=
  onPart (onHanded pace fun p r =>
    match handedResult p r with
    | some (sl, o, auth, .taken) => some (resultActs sl (p.slot sl) o auth ++ [.verdict .taken])
    | some (_, _, _, .unknown) => some [.verdict .unknown]
    | some (_, _, _, .stale) => some [.verdict .stale]
    | some (_, _, _, .late) | none => none) s

/-- LATE_RESULT (R89, R104). -/
def execLateResult (pace : Pace) (s : State) : Result :=
  onPart (onHanded pace fun p r =>
    match handedResult p r with
    | some (sl, o, auth, .late) => some (lateActs sl (p.slot sl) o auth ++ [.verdict .tooLate])
    | _ => none) s

/-- TAKEN_ABANDON (R106). -/
def execTakenAbandon (pace : Pace) (s : State) : Result :=
  onPart (onHanded pace fun p r =>
    match r.kind, r.slotNo with
    | .abandon, some sl =>
      if (p.slot sl).state = .tendering then
        some (nonApprovalActs sl (p.slot sl) .abandoned false ++ [.verdict .taken])
      else some [.verdict .unknown]
    | _, _ => none) s

/-- TENDER_TIMEOUT (R107): the first slot that the examination found reached. -/
def execTenderTimeout (pace : Pace) (s : State) : Result :=
  onPart (fun p =>
    match p.order.due with
    | [] => p
    | sl :: rest =>
      if p.accepted ∧ p.busy .order = false then
        let q := { p with order := { p.order with due := rest } }
        let s := p.slot sl
        if s.state = .tendering ∧ ((s.deadline.map (reached p.clock.run)).getD false) then
          decideAt .order pace (q, nonApprovalActs sl s .timedOut false)
        else q
      else p) s

/-! ### Jobs and blocks (R118, R121 to R124) -/

/-- JOB_HANDOFF (R118). -/
def execJobHandoff (s : State) : Result :=
  onPart (answer .order fun a => match a with | .handoff _ _ => true | _ => false) s

/-- JOB_START (R121). -/
def execJobStart (d : Printer) (s : State) : Result :=
  onPart (fun p =>
    match p.printQueue d with
    | [] => p
    | sl :: _ =>
      if p.accepted ∧ (p.sideAt d).state = .idle ∧ p.busy (.side d) = false then
        decideNow (.side d) (startJob p d sl)
      else p) s

/-- SPOOL_READ (R122). -/
def execSpoolRead (s : State) : Result := onPort (serve .printReader) s

/-- BLOCK_FILL (R123): the side begins its next block. -/
def execBlockFill (d : Printer) (s : State) : Result :=
  onPart (fun p =>
    let x := p.sideAt d
    if p.accepted ∧ x.state = .streaming ∧ x.stage = .empty ∧ p.busy (.side d) = false then
      decideNow (.side d) (p.setSide d fun x => { x with stage := .filling }, [.fill d])
    else p) s

/-- PROGRESS_REQUEST (R87, R124). -/
def execProgressRequest (d : Printer) (s : State) : Result :=
  onPart (answer (.side d) fun a => match a with | .askProgress _ _ _ => true | _ => false) s

/-! ### Exchanges (R125 to R131) -/

/-- A printer's answer to the exchange in progress of this kind. The answer of a poll that a withdrawal found in
progress is discarded, and the sides take their withdrawal values (R134). -/
def answerExchange (p : Part) (d : Printer) (kind : BlockKind) (b : Byte) : Part :=
  match p.print.exchange with
  | none => p
  | some x =>
    if x.printer = d ∧ x.kind = kind then
      let q := p.endExchange
      if x.discard then [Block.side 0, .side 1].foldl withdrawBlock q
      else match kind, (p.sideAt d).job with
        | .status, _ => let (r, acts) := answerStatus q d (Answer.ofByte b); hand (.side d) acts r
        | .data, some sl => let (r, acts) := answerData q d sl (Answer.ofByte b); hand (.side d) acts r
        | .cut, some sl => let (r, acts) := answerCut q d sl (Answer.ofByte b); hand (.side d) acts r
        | _, none => q
    else p

/-- An exchange begins, if it is the side's turn; with an answer it is decided as well. -/
def exchange (d : Printer) (kind : BlockKind) (b : Option Byte) (p : Part) : Part :=
  let q := if p.print.exchange.isNone then beginExchange p d kind else p
  match b with
  | some x => answerExchange q d kind x
  | none => q

/-- DATA_BLOCK (R128). -/
def execDataBlock (d : Printer) (b : Option Byte) (s : State) : Result := onPart (exchange d .data b) s
/-- CUT_BLOCK (R128, R129). -/
def execCutBlock (d : Printer) (b : Option Byte) (s : State) : Result := onPart (exchange d .cut b) s
/-- STATUS_BLOCK (R131). -/
def execStatusBlock (d : Printer) (b : Option Byte) (s : State) : Result := onPart (exchange d .status b) s

end Sys2Proof.Machine
end

