-- ==== Sys2Proof/Machine/Dispatch.lean ====
section
/-! DEFINITION. The meaning of every command: one arm per constructor of `Instr`. -/

namespace Sys2Proof.Machine

def exec (i : Instr) (s : State) : Host.Outcome State Fault Refusal :=
  match i with
  | .powerOn => Sys2Proof.Machine.execPowerOn s
  | .resetPin => Sys2Proof.Machine.execResetPin s
  | .resetRelease => Sys2Proof.Machine.execResetRelease s
  | .eighthEvent => Sys2Proof.Machine.execEighthEvent s
  | .secondEvent => Sys2Proof.Machine.execSecondEvent s
  | .minuteEvent => Sys2Proof.Machine.execMinuteEvent s
  | .laneRead n => Sys2Proof.Machine.execLaneRead n s
  | .passedWrite n => Sys2Proof.Machine.execPassedWrite n s
  | .ownedWrite n => Sys2Proof.Machine.execOwnedWrite n s
  | .portGrant => Sys2Proof.Machine.execPortGrant s
  | .updateDrain => Sys2Proof.Machine.execUpdateDrain s
  | .clockSetDay n => Sys2Proof.Machine.execClockSetDay n s
  | .clockSetMinute n => Sys2Proof.Machine.execClockSetMinute n s
  | .takeWrite n => Sys2Proof.Machine.execTakeWrite n s
  | .showRecordWrite n => Sys2Proof.Machine.execShowRecordWrite n s
  | .openShow n => Sys2Proof.Machine.execOpen n s
  | .cut n => Sys2Proof.Machine.execCut n s
  | .retire n pc => Sys2Proof.Machine.execRetire n pc s
  | .priceWrite n => Sys2Proof.Machine.execPriceWrite n s
  | .claim n => Sys2Proof.Machine.execClaim n s
  | .seatRelease n => Sys2Proof.Machine.execSeatRelease n s
  | .edit n pc => Sys2Proof.Machine.execEdit n pc s
  | .orderRecordWrite n => Sys2Proof.Machine.execOrderRecordWrite n s
  | .spoolWrite n => Sys2Proof.Machine.execSpoolWrite n s
  | .close n pc => Sys2Proof.Machine.execClose n pc s
  | .cancel n pc => Sys2Proof.Machine.execCancel n pc s
  | .release n pc => Sys2Proof.Machine.execRelease n pc s
  | .reprint n pc => Sys2Proof.Machine.execReprint n pc s
  | .forceDone n pc => Sys2Proof.Machine.execForceDone n pc s
  | .redeem n pc => Sys2Proof.Machine.execRedeem n pc s
  | .flagClear n => Sys2Proof.Machine.execFlagClear n s
  | .maskWrite n => Sys2Proof.Machine.execMaskWrite n s
  | .enable n => Sys2Proof.Machine.execEnable n s
  | .refresh n => Sys2Proof.Machine.execRefresh n s
  | .rejoin n => Sys2Proof.Machine.execRejoin n s
  | .headerWordWrite n => Sys2Proof.Machine.execHeaderWordWrite n s
  | .accept n => Sys2Proof.Machine.execAccept n s
  | .withdraw n => Sys2Proof.Machine.execWithdraw n s
  | .expiryRemoval => Sys2Proof.Machine.execExpiryRemoval s
  | .warningPass => Sys2Proof.Machine.execWarningPass s
  | .watchNotice n => Sys2Proof.Machine.execWatchNotice n s
  | .lapse n => Sys2Proof.Machine.execLapse n s
  | .darkRelease sh => Sys2Proof.Machine.execDarkRelease sh s
  | .lapseRelease n => Sys2Proof.Machine.execLapseRelease n s
  | .slotTeardown n pc => Sys2Proof.Machine.execSlotTeardown n pc s
  | .holdQuestion b => Sys2Proof.Machine.execHoldQuestion b s
  | .pendRequest => Sys2Proof.Machine.execPendRequest s
  | .saleRequest => Sys2Proof.Machine.execSaleRequest s
  | .returnRequest => Sys2Proof.Machine.execReturnRequest s
  | .dropRequest => Sys2Proof.Machine.execDropRequest s
  | .tenderTimeout pc => Sys2Proof.Machine.execTenderTimeout pc s
  | .quietSpell => Sys2Proof.Machine.execQuietSpell s
  | .transactionStart => Sys2Proof.Machine.execTransactionStart s
  | .transactionEnd => Sys2Proof.Machine.execTransactionEnd s
  | .poll c k => Sys2Proof.Machine.execPoll c k s
  | .fetch k => Sys2Proof.Machine.execFetch k s
  | .report k => Sys2Proof.Machine.execReport k s
  | .abandon k => Sys2Proof.Machine.execAbandon k s
  | .linkRequestSettle => Sys2Proof.Machine.execLinkRequestSettle s
  | .fetchTake pc => Sys2Proof.Machine.execFetchTake pc s
  | .takenResult pc => Sys2Proof.Machine.execTakenResult pc s
  | .lateResult pc => Sys2Proof.Machine.execLateResult pc s
  | .takenAbandon pc => Sys2Proof.Machine.execTakenAbandon pc s
  | .jobHandoff => Sys2Proof.Machine.execJobHandoff s
  | .jobStart p => Sys2Proof.Machine.execJobStart p s
  | .spoolRead => Sys2Proof.Machine.execSpoolRead s
  | .blockFill p => Sys2Proof.Machine.execBlockFill p s
  | .dataBlock p r => Sys2Proof.Machine.execDataBlock p r s
  | .progressRequest p => Sys2Proof.Machine.execProgressRequest p s
  | .cutBlock p r => Sys2Proof.Machine.execCutBlock p r s
  | .statusBlock p r => Sys2Proof.Machine.execStatusBlock p r s
  | .openingSweep => Sys2Proof.Machine.execOpeningSweep s
  | .sweepEnd => Sys2Proof.Machine.execSweepEnd s
  | .voucherClear => Sys2Proof.Machine.execVoucherClear s
  | .voucherRebuild => Sys2Proof.Machine.execVoucherRebuild s
  | .enterRunning => Sys2Proof.Machine.execEnterRunning s
  | .voucherReserve => Sys2Proof.Machine.execVoucherReserve s
  | .voucherIssue => Sys2Proof.Machine.execVoucherIssue s
  | .voucherReturn => Sys2Proof.Machine.execVoucherReturn s
  | .voucherRetire => Sys2Proof.Machine.execVoucherRetire s
  | .logReserve b => Sys2Proof.Machine.execLogReserve b s
  | .logHandBack b => Sys2Proof.Machine.execLogHandBack b s
  | .logWriteReserved b => Sys2Proof.Machine.execLogWriteReserved b s
  | .logWriteFree b => Sys2Proof.Machine.execLogWriteFree b s
  | .setRequest b => Sys2Proof.Machine.execSetRequest b s
  | .refusal n => Sys2Proof.Machine.execRefusal n s
  | .accessBegin n a w => Sys2Proof.Machine.execAccessBegin n a w s

end Sys2Proof.Machine
end

