-- ==== Sys2Proof/WellFormed.lean ====
section
/-! DEFINITION. Which commands are well formed: what the operand types do not already say. -/

namespace Sys2Proof

/-- A bit position of a byte time is 0 to 7 (R91). -/
def Clocking.wellFormed (c : Clocking) : Bool := decide (c.bits < 8)

/-- The command bytes that have a row of their own: FETCH, REPORT, ABANDON (10.5). -/
def ownRowCommand (b : Byte) : Bool := b == 0x22 || b == 0x33 || b == 0x44

/-- Is the asker a block that makes the requests of the row? The hold unit is asked by the order unit and
the show table (R21). -/
def asksHold : Block → Bool
  | .order | .shows => true
  | _ => false

/-- The log writer is asked for room by the order unit and the show table (R162). -/
def asksRoom : Block → Bool
  | .order | .shows => true
  | _ => false

/-- Entries from reservations are asked for by the order unit and the directory (R162). -/
def asksReserved : Block → Bool
  | .order | .directory => true
  | _ => false

/-- Entries from free room are asked for by the directory, the order unit and the hold unit (R162). -/
def asksFree : Block → Bool
  | .order | .directory | .hold => true
  | _ => false

/-- A well-formed command. -/
def Instr.wellFormed : Instr → Bool
  | .poll b c => !ownRowCommand b && c.wellFormed
  | .fetch c => c.wellFormed
  | .report c => c.wellFormed
  | .abandon c => c.wellFormed
  | .holdQuestion b => asksHold b
  | .logReserve b => asksRoom b
  | .logHandBack b => asksRoom b
  | .logWriteReserved b => asksReserved b
  | .logWriteFree b => asksFree b
  | .setRequest b => b != .attention
  | .powerOn | .resetPin | .resetRelease | .eighthEvent | .secondEvent | .minuteEvent
  | .laneRead _ | .passedWrite _ | .ownedWrite _ | .portGrant | .updateDrain
  | .clockSetDay _ | .clockSetMinute _ | .takeWrite _
  | .showRecordWrite _ | .openShow _ | .cut _ | .retire _ _ | .priceWrite _
  | .claim _ | .seatRelease _ | .edit _ _
  | .orderRecordWrite _ | .spoolWrite _ | .close _ _ | .cancel _ _ | .release _ _
  | .reprint _ _ | .forceDone _ _ | .redeem _ _
  | .flagClear _ | .maskWrite _ | .enable _ | .refresh _ | .rejoin _
  | .headerWordWrite _ | .accept _ | .withdraw _
  | .expiryRemoval | .warningPass | .watchNotice _ | .lapse _
  | .darkRelease _ | .lapseRelease _ | .slotTeardown _ _
  | .pendRequest | .saleRequest | .returnRequest | .dropRequest
  | .tenderTimeout _ | .quietSpell | .transactionStart | .transactionEnd
  | .linkRequestSettle | .fetchTake _ | .takenResult _ | .lateResult _ | .takenAbandon _
  | .jobHandoff | .jobStart _ | .spoolRead | .blockFill _ | .dataBlock _ _
  | .progressRequest _ | .cutBlock _ _ | .statusBlock _ _
  | .openingSweep | .sweepEnd | .voucherClear | .voucherRebuild | .enterRunning
  | .voucherReserve | .voucherIssue | .voucherReturn | .voucherRetire
  | .refusal _ | .accessBegin _ _ _ => true

end Sys2Proof
end

