-- ==== Sys2Proof/Safety.lean ====
section
/-! DEFINITION. The words in which statements about the machine are written: what a decision may still change
when its own changes are made, the slot that a decision in progress leads to, which words a change places,
what an opening and a minute evaluation make of a show, and the invariants of every step. -/

namespace Sys2Proof.Machine

/-! ### Decisions and what they leave -/

/-- No block waits for space in the update queue, for another block or for the memory port. -/
abbrev Part.calm (p : Part) : Prop := p.waiters = []

/-- Block `b` is free (R21, R69, R139, R152, R162), and no block waits. -/
abbrev Part.freeFor (p : Part) (b : Block) : Prop := p.calm ∧ p.busy b = false

/-- Every block is free, and no block waits. -/
def Part.idle (p : Part) : Prop := p.calm ∧ ∀ b, p.busy b = false

/-- Lane `n` presents an undecided write of `v` to `a` (R49), whose treatment is `t` (R54), while the owning block
`b` is free and no block waits. -/
abbrev Part.offers (p : Part) (n : Lane) (a : Addr) (v : Word) (t : Treatment) (b : Block) : Prop :=
  p.laneWrite n = some (a, v) ∧ p.treatment n a = t ∧ p.freeFor b

/-- `q` is `p` but for what placements and completed accesses touch: the update queue, the lanes' accesses with
the data lines of a read answered from the queue, and the blocks' decisions in progress. -/
def Part.Placed (p q : Part) : Prop :=
  q = { p with lanes := q.lanes, queue := q.queue, waiters := q.waiters, work := q.work } ∧
  ∀ n, q.lane n = { p.lane n with access := (q.lane n).access, dout := (q.lane n).dout }

/-- As `Placed`, and attention flags may have been set and ATN lines brought to their level. -/
def Part.Flagged (p q : Part) : Prop :=
  Part.Placed { p with attention := q.attention } q ∧
  (∀ n, q.att n = { p.att n with flags := (q.att n).flags, line := (q.att n).line }) ∧
  ∀ n, (p.att n).flags &&& (q.att n).flags = (p.att n).flags

/-- A write of lane `n` was taken or refused: the pending day is absent if the lane is lane 0 (R5). -/
def Part.afterWrite (p : Part) (n : Lane) : Part :=
  if n = 0 then { p with clock := { p.clock with pendingDay := none } } else p

/-- The write of lane `n` to `a` is refused with reason `r`: the lane interface has the refusal to hand on (R159),
the access is decided, and nothing else has changed but for the pending day. -/
def Part.Refuses (p q : Part) (n : Lane) (a : Addr) (r : Reason) : Prop :=
  q = { p.afterWrite n with lanes := q.lanes, work := q.work } ∧
  (∀ m, q.lane m = if m = n then
      { p.lane n with access := (p.lane n).access.map fun x => { x with decided := true } } else p.lane m) ∧
  ∀ b, (q.task b).acts = if b = .lane n then (p.task b).acts ++ [.refusal n a r] else (p.task b).acts

/-- What an act of the order unit makes of slot `sl`. -/
def Act.onSlot (sl : SlotNo) (s : Shadow) : Act → Shadow
  | .commit x t => if x = sl then t else s
  | .refuseSlot x r => if x = sl then { s with state := .refused, reason := some r } else s
  | .approve x auth _ => if x = sl then s.approved auth else s
  | .endSlot x st keep _ => if x = sl then s.ended st keep else s
  | .emptySlot x => if x = sl then Shadow.initial else s
  | .lateEnd x l => if x = sl then { s with late := some l, reserved := 0 } else s
  | _ => s

/-- The shadow that slot `sl` has once the order unit's decision in progress is over: its present shadow when the
order unit is free. -/
def Part.slotAfter (p : Part) (sl : SlotNo) : Shadow :=
  (p.task .order).acts.foldl (Act.onSlot sl) (p.slot sl)

/-- The rest of a decision is empty, or the decision is taken in parts and its next act waits for the command of
its own row: either way the block does nothing more of its own. -/
def stops (parts : Bool) (rest : List Act) : Prop :=
  rest = [] ∨ parts = true ∧ ∃ a l, rest = a :: l ∧ ∀ p, a.suspends p = true

/-- The update queue has room for `k` more entries (R62). -/
abbrev Part.room (p : Part) (k : Nat) : Prop := p.queue.length + k ≤ 16

/-- No lane presents a passed write to `a`, which would coalesce into a placement there (R64). -/
abbrev Part.noPass (p : Part) (a : Addr) : Prop := ∀ n, (p.passedWrite n).map (·.1) ≠ some a

/-! ### The words that a change places -/

/-- The windows of the header in force lie above the fixed regions and within memory, no two of them sharing a word
(R173), and the write index lies within the log. -/
abbrev Part.laidOut (p : Part) : Prop :=
  let windows : List (Nat × Nat) := [(p.base (·.seatBase), p.base (·.seatSize)), (p.base (·.orderBase), 768),
    (p.base (·.spoolBase), 6144), (p.base (·.voucherBase), 1024), (p.base (·.logBase), 8 * p.log.capacity)]
  (∀ w ∈ windows, 0x160 ≤ w.1 ∧ w.1 + w.2 ≤ 0x40000) ∧
    windows.Pairwise (fun v w => v.1 + v.2 ≤ w.1 ∨ w.1 + w.2 ≤ v.1) ∧ p.log.write < p.log.capacity

/-- The update queue has room for `k` more entries, no lane presents a passed write that would coalesce into one, and the
windows are laid out. -/
abbrev Part.clearFor (p : Part) (k : Nat) : Prop := p.room k ∧ (∀ n, p.passedWrite n = none) ∧ p.laidOut

/-- The status words of slot `sl` that a change from `x` to `y` changes are placed (R68), each in the format of 10.3. -/
abbrev Part.StatusPlaced (p t : Part) (sl : SlotNo) (x y : Shadow) : Prop :=
  ∀ k : Fin 16, statusWord x k ≠ statusWord y k →
    queueFind t.queue (p.orderAddr sl (16 + k.val)) = some (statusWord y k)

/-- Both words of the printer state word of `d` are placed, if what they show has changed (R120, 10.2). -/
abbrev Part.PrinterPlaced (p t : Part) (d : Printer) : Prop :=
  let words (q : Part) := printerStateWords (q.sideAt d) q.print.exhausted (q.printQueue d).length
  words p ≠ words t →
    queueFind t.queue (addrOf (0x2B + 2 * d.val)) = some (words t).1 ∧
    queueFind t.queue (addrOf (0x2C + 2 * d.val)) = some (words t).2

/-- The voucher count words whose counts have changed are placed (R137). -/
abbrev Part.CountsPlaced (p t : Part) : Prop :=
  ∀ k : Fin 4, p.voucherCount (countState k) ≠ t.voucherCount (countState k) →
    queueFind t.queue (addrOf (0x27 + k.val)) = some (wordOf (t.voucherCount (countState k)))

/-- The free list holds exactly the FREE vouchers, each once (R138). -/
abbrev Part.freeExact (p : Part) : Prop :=
  p.directory.free.Nodup ∧ ∀ i, i ∈ p.directory.free ↔ (p.voucher i).state = .free

/-! ### Shows -/

/-- The open checks of R11 on the record words `w` of show `sh`, against a foyer minute number. -/
def Part.MayOpen (p : Part) (sh : ShowNo) (w : Fin 7 → Nat) (minute : Nat) : Prop :=
  1 ≤ w 1 ∧ w 1 ≤ 1024 ∧ w 0 + w 1 ≤ ((p.windows.map (·.seatSize)).getD 0) * 256 ∧
  (∀ o, o ≠ sh → (p.showAt o).state ≠ .vacant →
    w 0 + w 1 ≤ (p.showAt o).word 0 ∨ (p.showAt o).word 0 + (p.showAt o).word 1 ≤ w 0) ∧
  w 3 < 1440 ∧ w 4 ≤ 120 ∧ w 5 ≤ 240 ∧ minute + w 4 < w 2 * 1440 + w 3 ∧ 1 ≤ w 6 ∧ w 6 ≤ 99

/-- What a minute evaluation makes of a show (R15): an OPEN one whose cut-off minute number has been reached or whose
cut is requested goes to CUTOFF, and one in CUTOFF then, whose start has been reached, to DARK. -/
def ShowEntry.evaluated (e : ShowEntry) (minute : Nat) : ShowEntry :=
  let cuts := e.state = .opened ∧ (e.cutoff ≤ minute ∨ e.cut = true)
  if (cuts ∨ e.state = .cutoff) ∧ e.start ≤ minute then { e with state := .dark, cut := false }
  else if cuts then { e with state := .cutoff, cut := false }
  else e

/-- From `p` to `t` the minute evaluation is made, with room for `k` words that are placed before it. Every show is
evaluated, with its DARK release asked for (R16), in ascending order of the shows (log 41), when there is room for a
state word of each due show and for the flag and cause words of each lane whose SHOW_CHANGE is not set, or when one show
at most is due and there is room for its state word. With room for one state word SHOW_CHANGE is set for all lanes when a
show is due. -/
def Part.Evaluates (p t : Part) (minute k : Nat) : Prop :=
  let due := (List.finRange 16).filter fun sh => ((p.showAt sh).evaluated minute).state != (p.showAt sh).state
  let dark := due.filter fun sh => ((p.showAt sh).evaluated minute).state == .dark
  let unset := (List.finRange 6).filter fun n => !Flag.showChange.isIn (p.att n).flags
  (p.room (k + due.length + 2 * unset.length) ∨ due.length ≤ 1 ∧ p.room (k + 1) →
    (∀ sh, t.showAt sh = (p.showAt sh).evaluated minute) ∧ t.hold.darkDue = p.hold.darkDue ++ dark) ∧
  (p.room (k + 1) → due ≠ [] → ∀ n, Flag.showChange.isIn (t.att n).flags = true)

/-! ### Invariants of every step -/

/-- The update queue holds at most 16 entries, no two for one word (R62, R63). -/
abbrev queueOk (q : List (Addr × Word)) : Prop := q.length ≤ 16 ∧ (q.map (·.1)).Nodup

/-- Foyer memory keeps its canonical form, and the update queue its bounds. -/
abbrev State.storeOk (s : State) : Prop := Memory.wf s.mem ∧ queueOk s.part.queue

/-- The counts of the foyer clock stay in their ranges (R1). -/
abbrev Clock.ok (c : Clock) : Prop := c.prescaler ≤ 4095 ∧ c.eighth ≤ 7 ∧ c.second ≤ 59

/-- A LAPSED lane has a WATCHING watch in LAPSE mode: nothing else lapses a lane (R47). -/
abbrev LaneIf.ok (l : LaneIf) : Prop := l.lapsed = true → l.watch.on = true ∧ l.watch.lapseMode = true

/-- The counts and lists of the part that have a bound: clock, link request list (R96), refusal counts (R151),
busy counts (R119), and the lane watches. -/
abbrev Part.countsOk (p : Part) : Prop :=
  p.clock.ok ∧ p.tender.requests.length ≤ 4 ∧ (∀ n, (p.att n).count ≤ 255) ∧ (∀ d, (p.sideAt d).busy < 40)
    ∧ ∀ n, (p.lane n).ok

/-- The payment queue holds exactly the QUEUED slots (R83) and the tender window exactly the TENDERING ones (R95), each
once. -/
abbrev Part.listsOk (p : Part) : Prop :=
  p.order.payQueue.Nodup ∧ p.order.window.Nodup ∧
  ∀ sl, (sl ∈ p.order.payQueue ↔ (p.slot sl).state = .queued) ∧ (sl ∈ p.order.window ↔ (p.slot sl).state = .tendering)

end Sys2Proof.Machine
end

