-- ==== Sys2Proof/Certificates/Slice0/Obligations.lean ====
section
/-! DEFINITION. The statements about the machine. A statement about a command says for which states and operands
`exec` answers a next state, what that state holds, and what it leaves as it was. -/

open Sys2Proof Sys2Proof.Machine

/-! ### The step and its invariants -/

/-- A step takes the command at the front of the queue and runs it with the queue's rest. -/
def Obligations.StepRunsFrontCommand : Prop :=
  ∀ (c : Instr) (rest : List Instr) (s : State),
    s.pending = c :: rest → step s = exec c { s with pending := rest }

/-- Every command answers a next state, and leaves the queue of waiting commands as it was; but for POWER_ON it leaves
the count of power-ons as well. Every command but POWER_ON and those in which the memory port writes foyer memory or
reads it for a lane leaves each word of foyer memory as it was. The queue and the count are the model's own. -/
def Obligations.EveryCommandAnswersNext : Prop :=
  ∀ (c : Instr) (s : State), ∃ t, exec c s = .next t ∧ t.pending = s.pending ∧
    (c ≠ .powerOn → t.powerOns = s.powerOns) ∧
    ((match c with
      | .powerOn | .portGrant | .updateDrain | .passedWrite _ | .headerWordWrite _
      | .claim _ | .seatRelease _ | .edit _ _ => False
      | _ => True) → t.mem = s.mem)

/-- Every step keeps the canonical form of foyer memory, at most 16 entries in the update queue and at most one for
any word. -/
def Obligations.StepKeepsMemoryAndQueue : Prop :=
  ∀ s t : State, s.storeOk → step s = .next t → t.storeOk

/-- Every step keeps the ranges of the clock's prescaler, eighth count and second of minute, at most 4 link
requests, refusal counts of at most 255, busy counts below 40, and a LAPSED lane's watch WATCHING in LAPSE mode. -/
def Obligations.StepKeepsCounts : Prop :=
  ∀ s t : State, s.part.countsOk → step s = .next t → t.part.countsOk

/-- Every step keeps the payment queue the QUEUED slots and the tender window the TENDERING slots, each slot once. -/
def Obligations.StepKeepsSlotLists : Prop :=
  ∀ s t : State, s.part.listsOk → step s = .next t → t.part.listsOk

/-- The state after reset meets the three invariants. -/
def Obligations.ResetMeetsInvariants : Prop :=
  State.reset.storeOk ∧ State.reset.part.countsOk ∧ State.reset.part.listsOk

/-- The values that the spec states for power-on, block by block (R1, R5, R8, R20, R42, R49, R60, R62, R67, R83,
R94, R95, R116, R117, R118, R119, R127, R135, R138, R151, R161, R167, R168, R170). Foyer memory, the level of RESET and
the lanes' data lines, of which the spec states no value, stand in no clause (log 1, log 3). Three clauses hold values
that are the model's: the empty queue of commands (log 29), TSEL high with no transaction in progress, and the fields of
a side that R119 does not name (both log 3). -/
def Obligations.ResetState : Prop :=
  let p := State.reset.part
  State.reset.pending = [] ∧ p.mode = .transparent ∧ p.setup.cause = .powerOn ∧ p.setup.cursor = 0 ∧
  (∀ k : Fin 31, p.setup.header[k] = none) ∧ p.windows = none ∧ p.queue = [] ∧
  p.rotation = [.lane 0, .lane 1, .lane 2, .lane 3, .lane 4, .lane 5, .drain, .printReader, .sweepReader] ∧
  p.clock = { prescaler := 0, eighth := 0, second := 0, minute := 0, day := 0, run := 0, started := false,
              pendingDay := none } ∧
  (∀ n, (p.lane n).role = .none ∧ (p.lane n).lapsed = false ∧ (p.lane n).quiet = false ∧
    (p.lane n).watch = ⟨false, false, 0, 0⟩ ∧ p.wait n = false ∧ p.atn n = false) ∧
  (∀ sh, (p.showAt sh).state = .vacant ∧ (p.showAt sh).cursor = 0 ∧ (p.showAt sh).cut = false ∧
    (p.showAt sh).fault = false ∧ (p.showAt sh).last = .none ∧ ∀ k : Fin 7, (p.showAt sh).words[k] = none) ∧
  p.hold.holds = [] ∧ p.hold.duration = 0 ∧ p.hold.warnLead = 0 ∧ (∀ n : Lane, p.hold.quota[n] = 0) ∧
  (∀ sl, p.slot sl = Shadow.initial) ∧ p.order.payQueue = [] ∧ p.order.window = [] ∧
  (∀ k : Fin 24, p.order.prices[k] = 0) ∧
  p.tender.shift = none ∧ p.tender.counter = 0 ∧ p.tender.timeout = 0 ∧ p.tender.requests = [] ∧
  p.tender.lastRejected = false ∧ p.tender.quiet = 0 ∧ p.tender.quietRaised = false ∧
  p.print.serial = 0 ∧ p.print.exhausted = false ∧ (∀ d, p.printQueue d = []) ∧ p.print.lastServed = 1 ∧
  (∀ n : Lane, p.print.preferred[n] = 0) ∧ (∀ d, p.sideAt d = Side.initial) ∧ p.print.exchange = none ∧
  (∀ i, (p.voucher i).state = .free) ∧ p.directory.free = List.finRange 256 ∧ p.directory.tagGen = 0 ∧
  (∀ n, p.att n = ⟨0, 0, 0, 0, none, false⟩) ∧ p.log = ⟨0, 0, 0, 0, 0⟩

/-! ### Power, RESET and the foyer clock -/

/-- POWER_ON and a falling RESET put every block at the values of R168, the tender link's counter, timeout, request list,
quiet count and mark with them (R94): what outlives them is the lanes' data lines, a read not yet answered returning
FFFFh (R52), and the transaction in progress, which goes on served with FFh (R111). After POWER_ON the words of foyer
memory are free values (log 2), and RESET keeps the level it had, the model's choice (log 23); at RESET memory keeps what
it held. A RESET that is low already changes nothing more, and when RESET rises only its level changes. -/
def Obligations.PowerOnAndReset : Prop :=
  let resets (p t : Part) (cause : ResetCause) (low : Bool) : Prop :=
    t = { Part.initial cause with resetLow := low, lanes := t.lanes, tender := t.tender } ∧
    (∀ n, t.lane n = { LaneIf.initial with
      dout := if (p.lane n).access.any (·.write.isNone) then some 0xFFFF else (p.lane n).dout }) ∧
    t.tender = { shift := t.tender.shift, counter := 0, timeout := 0, requests := [], handed := false
                 lastRejected := false, quiet := 0, quietRaised := false, examine := false, sent := p.tender.sent } ∧
    (p.tender.shift = none → t.tender.shift = none) ∧
    ∀ x, p.tender.shift = some x → ∃ y, t.tender.shift = some y ∧ y.dead = true ∧ y.byteTime = x.byteTime ∧
      y.bitPos = x.bitPos ∧ (x.sending ≠ none → y.sending = some 0xFF)
  (∀ s : State, ∃ t, exec .powerOn s = .next { s with
      mem := Memory.ofCells (Config.powerOnCells s.powerOns), powerOns := s.powerOns + 1, part := t } ∧
    resets s.part t .powerOn s.part.resetLow) ∧
  (∀ s : State, s.part.resetLow = false → ∃ t, exec .resetPin s = .next { s with part := t } ∧
    resets s.part t .resetPin true) ∧
  (∀ s : State, s.part.resetLow = true → exec .resetPin s = .next s) ∧
  (∀ s : State, s.part.calm → exec .resetRelease s = .next { s with part := { s.part with resetLow := false } })

/-- The prescaler counts one FCLK edge at a step on an empty queue (log 19) and after 4,096 edges returns to 0. Its
return (EIGHTH_EVENT) emits nothing while the clock is not started or the part is not in SWEEPING or RUNNING (R1);
otherwise it advances the eighth count, and the sides' blocks held for retry are made ready (R2, R128). Nothing else
changes. At the eighth count 7 it carries into a second event: the command does then what SECOND_EVENT does, and
SECOND_EVENT at the second of minute 59, which carries into a minute event, what MINUTE_EVENT does (R2). That the command
EIGHTH_EVENT returns the prescaler to 0 whatever it was is the model's choice (log 5), and so is that a started clock
emits nothing in CHECKING (log 51). -/
def Obligations.ClockEdgeAndEighthEvent : Prop :=
  (∀ s : State, s.pending = [] → s.part.calm → s.part.clock.prescaler < 4095 →
    step s = .next { s with part := { s.part with
      clock := { s.part.clock with prescaler := s.part.clock.prescaler + 1 } } }) ∧
  (∀ s : State, s.pending = [] → s.part.clock.prescaler = 4095 → step s = exec .eighthEvent s) ∧
  (∀ s : State, s.part.calm → s.part.clock.started = false ∨ s.part.accepted = false →
    exec .eighthEvent s = .next { s with part := { s.part with clock := { s.part.clock with prescaler := 0 } } }) ∧
  (∀ s : State, s.part.calm → s.part.clock.started = true → s.part.accepted = true → s.part.clock.eighth < 7 →
    ∃ t, exec .eighthEvent s = .next { s with part := t } ∧
      t = { s.part with
        clock := { s.part.clock with prescaler := 0, eighth := s.part.clock.eighth + 1 }
        print := { s.part.print with sides := t.print.sides } } ∧
      ∀ d, t.sideAt d = { s.part.sideAt d with
        stage := if (s.part.sideAt d).stage = .held then .ready else (s.part.sideAt d).stage }) ∧
  (∀ s : State, s.part.clock.started = true → s.part.accepted = true →
    (s.part.clock.eighth = 7 → exec .eighthEvent s = exec .secondEvent s) ∧
    (s.part.clock.second = 59 → exec .secondEvent s = exec .minuteEvent s))

/-- SECOND_EVENT while the clock runs, from a part whose blocks are free. The clock advances the second of minute and the
run-second count, carrying into minute and day (R2, R3), and with room for them its mirror words are placed (R7). The
hold unit's round begins (R31). The countdown of each ACTIVE lane whose WATCHING watch has not run out falls by 1 (R45).
The reached deadlines of the tender window are found (R107), and the examination of the quiet timer is asked for (R109).
A poll falls due for each FAULTED or OFFLINE side with no exchange in progress (R131). The hold table, the order slots,
the directory, the log and the setup controller stay as they were. That the command runs all eighth events up to the one
that carries is the model's choice (log 5); so is the examination as a step of its own (log 12), and so is that at the
second of minute 59 the mirror words already show the day and minute after the minute event that follows (log 47). -/
def Obligations.SecondEvent : Prop :=
  ∀ s : State, let p := s.part
    p.idle → p.clock.started = true → p.accepted = true → p.clock.ok →
    ∃ t, exec .secondEvent s = .next { s with part := t } ∧
      t.clock = { p.clock with
        prescaler := 0, eighth := 0, run := p.clock.run + 1
        second := if p.clock.second < 59 then p.clock.second + 1 else 0
        minute := if p.clock.second < 59 then p.clock.minute
          else if p.clock.minute < 1439 then p.clock.minute + 1 else 0
        day := if p.clock.second < 59 ∨ p.clock.minute < 1439 then p.clock.day else p.clock.day + 1 } ∧
      t.hold.round = true ∧ t.hold.holds = p.hold.holds ∧
      (∀ n, (p.lane n).watchExpired = false →
        (t.lane n).lapsed = (p.lane n).lapsed ∧ (t.lane n).quiet = (p.lane n).quiet ∧
        (t.lane n).watch = if (p.lane n).watch.on = true ∧ (p.lane n).lapsed = false then
          { (p.lane n).watch with countdown := (p.lane n).watch.countdown - 1 } else (p.lane n).watch) ∧
      (∀ sl, sl ∈ t.order.due ↔ sl ∈ p.order.due ∨
        sl ∈ p.order.window ∧ ∃ d, (p.slot sl).deadline = some d ∧ reached (p.clock.run + 1) d = true) ∧
      t.order = { p.order with due := t.order.due } ∧ t.directory = p.directory ∧ t.log = p.log ∧
      t.setup = p.setup ∧
      t.tender.examine = true ∧ (p.tender.examine = false → t.tender = { p.tender with examine := true }) ∧
      (∀ d, t.sideAt d = { p.sideAt d with
        stage := if (p.sideAt d).stage = .held then .ready else (p.sideAt d).stage
        pollDue := (p.sideAt d).pollDue || ((p.sideAt d).state == .faulted || (p.sideAt d).state == .offline)
          && p.print.exchange.map (·.printer) != some d }) ∧
      (p.room 5 → p.tender.examine = false → (∀ n, (p.lane n).watchExpired = false) → (∀ n, p.passedWrite n = none) →
        queueFind t.queue 0x22 = some t.clock.day ∧ queueFind t.queue 0x23 = some (wordOf t.clock.minute) ∧
        queueFind t.queue 0x24 = some (wordOf t.clock.second) ∧
        queueFind t.queue 0x25 = some (hiWord t.clock.run.toNat) ∧
        queueFind t.queue 0x26 = some (loWord t.clock.run.toNat))

/-- MINUTE_EVENT while the clock runs, from a part whose blocks are free: the second events that are left of the
minute have passed, and the minute of day, with the day at midnight, has advanced (R2, R3). The order slots, the hold
entries, the directory and the log are as they were. The minute evaluation (R15, R16), no watch being WATCHING and
no slot QUEUED: an OPEN show whose cut-off has been reached or whose cut is
requested goes to CUTOFF, a CUTOFF show whose start has been reached, that one included, to DARK with its DARK release
asked for, and the other shows stay. The room it takes is the mirror words, the state word of each show that is due, and
two words of each lane whose SHOW_CHANGE is not set; with one show due the mirror words and that state word are enough.
With room for the mirror words and one state word SHOW_CHANGE is set for all lanes. That the command runs all events up
to the one that carries is the model's choice (log 5), and so is the ascending order of the DARK releases (log 41). -/
def Obligations.MinuteEvent : Prop :=
  ∀ s : State, let p := s.part
    p.idle → p.clock.started = true → p.accepted = true → p.clock.ok →
    ∃ t, exec .minuteEvent s = .next { s with part := t } ∧
      t.clock = { p.clock with
        prescaler := 0, eighth := 0, second := 0, run := p.clock.run + BitVec.ofNat 24 (60 - p.clock.second)
        minute := if p.clock.minute < 1439 then p.clock.minute + 1 else 0
        day := if p.clock.minute < 1439 then p.clock.day else p.clock.day + 1 } ∧
      t.hold.holds = p.hold.holds ∧ t.order = { p.order with due := t.order.due } ∧
      t.directory = p.directory ∧ t.log = p.log ∧ t.setup = p.setup ∧
      ((∀ n, (p.lane n).watch.on = false) → p.order.payQueue = [] →
        p.Evaluates t t.clock.minuteNo 5)

/-! ### Lane accesses and the memory port -/

/-- ACCESS_BEGIN: a lane bus without an access in progress presents a read or a write, and WAITn is asserted; while
one is in progress a second is not presented (R49). Nothing else changes. LANE_READ: a read is answered with the
word's decided value, in every part state, ACTIVE or LAPSED: from the update queue at once and with no grant, else from
memory in the lane's grant when its turn has come; else it waits (R50, R60). -/
def Obligations.AccessBeginAndLaneRead : Prop :=
  (∀ (n : Lane) (a : Addr) (w : Option Word) (s : State), s.part.calm →
    ((s.part.lane n).access = none → ∃ t, exec (.accessBegin n a w) s = .next { s with part := t } ∧
      t = s.part.setLane n (fun l => { l with access := some ⟨a, w, false, false⟩ }) ∧ t.wait n = true) ∧
    ((s.part.lane n).access ≠ none → exec (.accessBegin n a w) s = .next s)) ∧
  (∀ (n : Lane) (s : State) (a : Addr), s.part.calm → s.part.laneRead n = some a → s.part.seatReading ≠ some n →
    (∀ v, queueFind s.part.queue a = some v →
      exec (.laneRead n) s = .next { s with
        part := s.part.setLane n fun l => { l with access := none, dout := some v } }) ∧
    (queueFind s.part.queue a = none → s.part.firstAsker = some (.lane n) →
      exec (.laneRead n) s = .next { s with
        part := { s.part.setLane n fun l => { l with access := none, dout := some (s.mem.read a.toNat) } with
          rotation := s.part.rotation.erase (.lane n) ++ [.lane n] } }) ∧
    (queueFind s.part.queue a = none → s.part.firstAsker ≠ some (.lane n) → exec (.laneRead n) s = .next s))

/-- PASSED_WRITE of a word with the PASS treatment: with an entry for the word it is coalesced into the entry, uses
no grant and completes; without one it is performed in the lane's grant when its turn has come and completes; else
it waits (R51, R60, R64). UPDATE_DRAIN, and PORT_GRANT when the drain stands first among the asking requesters: the
head entry's value is written to its word, the entry leaves the queue, and the drain moves to the back of the rotation
order (R60, R65). Every other word of foyer memory keeps its value. PORT_GRANT to another first asker is that
requester's own row; without an asking requester it changes nothing; the first asker is the asking requester that no
asking one precedes. -/
def Obligations.PassedWriteAndDrain : Prop :=
  (∀ (n : Lane) (s : State) (a : Addr) (v : Word), s.part.calm → Memory.wf s.mem →
    s.part.laneWrite n = some (a, v) → s.part.treatment n a = .pass →
    ((queueFind s.part.queue a).isSome = true → ∃ t, exec (.passedWrite n) s = .next { s with part := t } ∧
      t = { s.part.setLane n fun l => { l with access := none } with queue := t.queue } ∧
      t.queue.map (·.1) = s.part.queue.map (·.1) ∧
      ∀ b, queueFind t.queue b = if b = a then some v else queueFind s.part.queue b) ∧
    (queueFind s.part.queue a = none → s.part.firstAsker = some (.lane n) →
      ∃ m, exec (.passedWrite n) s = .next { s with
          mem := m
          part := { s.part.setLane n fun l => { l with access := none } with
            rotation := s.part.rotation.erase (.lane n) ++ [.lane n] } } ∧
        ∀ b, Memory.read m b = if b = a.toNat then v else s.mem.read b) ∧
    (queueFind s.part.queue a = none → s.part.firstAsker ≠ some (.lane n) → exec (.passedWrite n) s = .next s)) ∧
  (∀ (s : State) (a : Addr) (v : Word) (rest : List (Addr × Word)), s.part.calm → Memory.wf s.mem →
    s.part.queue = (a, v) :: rest → s.part.firstAsker = some .drain →
    ∃ m, (∀ b, Memory.read m b = if b = a.toNat then v else s.mem.read b) ∧
      let t : State := { s with
        mem := m
        part := { s.part with queue := rest, rotation := s.part.rotation.erase .drain ++ [.drain] } }
      exec .updateDrain s = .next t ∧ exec .portGrant s = .next t) ∧
  (∀ (s : State) (n : Lane), s.part.firstAsker = some (.lane n) → s.part.seatReading ≠ some n →
    ((s.part.laneRead n).isSome = true → exec .portGrant s = exec (.laneRead n) s) ∧
    ((s.part.passedWrite n).isSome = true → exec .portGrant s = exec (.passedWrite n) s)) ∧
  (∀ s : State, s.part.firstAsker = some .printReader → exec .portGrant s = exec .spoolRead s) ∧
  (∀ s : State, s.part.firstAsker = some .sweepReader → s.part.headRead .setup = none →
    s.part.headRead .directory = none → exec .portGrant s = exec .openingSweep s) ∧
  (∀ s : State, s.part.calm → s.part.firstAsker = none → exec .portGrant s = .next s) ∧
  (∀ (p : Part) (r : Requester), p.firstAsker = some r ↔
    ∃ before after, p.rotation = before ++ r :: after ∧ p.asking r = true ∧ ∀ x ∈ before, p.asking x = false)

/-- OWNED_WRITE: a write with the READ_ONLY treatment is refused READ_ONLY and absorbed (R55). REFUSAL, while the
attention unit is free: the lane's refusal address and reason are the write's, the count is raised by 1 or stays at 255,
and REFUSED is set (R159). With room for the changed words the refused write completes. The mask and every other lane's
record are unchanged, and so is everything but the placements and the ATN line. -/
def Obligations.OwnedWriteAndRefusal : Prop :=
  (∀ (n : Lane) (s : State) (a : Addr) (v : Word), s.part.calm →
    s.part.laneWrite n = some (a, v) → s.part.treatment n a = .readOnly →
    ∃ t, exec (.ownedWrite n) s = .next { s with part := t } ∧ s.part.Refuses t n a .readOnly) ∧
  (∀ (n : Lane) (a : Addr) (r : Reason) (s : State), let p := s.part
    p.freeFor .attention → p.accepted = true → (p.task (.lane n)).acts = [.refusal n a r] →
    ∃ t, exec (.refusal n) s = .next { s with part := t } ∧
      Part.Placed { p with attention := t.attention } t ∧
      (∀ m, m ≠ n → t.att m = p.att m) ∧
      t.att n = { p.att n with
        addr := a, reason := some r, count := min 255 ((p.att n).count + 1)
        flags := (p.att n).flags ||| Flag.refused.mask, line := (t.att n).line } ∧
      (t.task (.lane n)).acts = [] ∧
      (p.room 7 → (t.lane n).access = none ∧ (t.att n).line = (t.att n).raised))

/-! ### The clock set, the take index and the supervisor's gates -/

/-- CLOCK_SET_DAY by an ACTIVE lane 0 in RUNNING is taken, sets the pending day and reaches memory as written (R5).
CLOCK_SET_MINUTE with a pending day and a value of at most 1439 is taken: the clock loads day and minute, second and
eighth count are 0, the run-second count is unchanged, and the pending day is absent (R5, R6); the minute evaluation
follows (R6, R15, R16): with room for the value, the mirror words, the state words and the words of the lanes whose
SHOW_CHANGE is not set, or with one show due and room for its state word after the value and the mirror words, due shows
go to CUTOFF or DARK, with the DARK releases asked for in ascending order of the shows (the model's choice, log 41), and
SHOW_CHANGE is set for all lanes. With none pending it is refused
SEQUENCE, and with a value above 1439 BAD_REQUEST. In SWEEPING both are refused BUSY (R5, R59). -/
def Obligations.ClockSet : Prop :=
  (∀ (s : State) (a : Addr) (v : Word), let p := s.part
    p.offers 0 a v .clockDay .clock → p.mode = .running → (p.lane 0).lapsed = false →
    ∃ t, exec (.clockSetDay 0) s = .next { s with part := t } ∧
      Part.Placed { p with clock := { p.clock with pendingDay := some v } } t ∧
      (p.room 1 → (t.lane 0).access = none ∧ (p.noPass a → queueFind t.queue a = some v))) ∧
  (∀ (s : State) (a : Addr) (v : Word), let p := s.part
    p.offers 0 a v .clockMinute .clock → p.mode = .running → (p.lane 0).lapsed = false →
    (∀ d, p.clock.pendingDay = some d → v.toNat ≤ 1439 → p.busy .shows = false →
      ∃ t, exec (.clockSetMinute 0) s = .next { s with part := t } ∧
        t.clock = { p.clock with day := d, minute := v.toNat, second := 0, eighth := 0, pendingDay := none } ∧
        t.hold = { p.hold with darkDue := t.hold.darkDue } ∧ t.order = p.order ∧ t.tender = p.tender ∧
        t.print = p.print ∧ t.directory = p.directory ∧ t.log = p.log ∧ t.setup = p.setup ∧ t.sweep = p.sweep ∧
        (p.room 6 → (t.lane 0).access = none) ∧
        (p.busy .attention = false → p.Evaluates t (d.toNat * 1440 + v.toNat) 6)) ∧
    (p.clock.pendingDay = none →
      ∃ t, exec (.clockSetMinute 0) s = .next { s with part := t } ∧ p.Refuses t 0 a .sequence) ∧
    (p.clock.pendingDay ≠ none → 1439 < v.toNat →
      ∃ t, exec (.clockSetMinute 0) s = .next { s with part := t } ∧ p.Refuses t 0 a .badRequest)) ∧
  (∀ (s : State) (a : Addr) (v : Word), let p := s.part
    p.mode = .sweeping → (p.lane 0).lapsed = false →
    (p.offers 0 a v .clockDay .clock →
      ∃ t, exec (.clockSetDay 0) s = .next { s with part := t } ∧ p.Refuses t 0 a .busy) ∧
    (p.offers 0 a v .clockMinute .clock →
      ∃ t, exec (.clockSetMinute 0) s = .next { s with part := t } ∧ p.Refuses t 0 a .busy))

/-- The gates of the supervisor's writes (R57): the show record, show command, price, clock and take writes of lanes
1 to 5 are refused ROLE, those of a LAPSED lane 0 LAPSED. -/
def Obligations.SupervisorGates : Prop :=
  ∀ (n : Lane) (s : State) (a : Addr) (v : Word) (e : Reason), let p := s.part
    p.calm → p.laneWrite n = some (a, v) →
    (n ≠ 0 ∧ e = .role ∨ n = 0 ∧ (p.lane 0).lapsed = true ∧ e = .lapsed) →
    ∀ c : Instr,
      (match c with
        | .showRecordWrite m => m = n ∧ p.busy .shows = false ∧ ∃ sh k, p.treatment n a = .showRecord sh k
        | .openShow m => m = n ∧ p.busy .shows = false ∧ (∃ sh, p.treatment n a = .showCommand sh) ∧ v = 0x8001
        | .cut m => m = n ∧ p.busy .shows = false ∧ (∃ sh, p.treatment n a = .showCommand sh) ∧ v = 0x8002
        | .retire m _ => m = n ∧ p.busy .shows = false ∧ (∃ sh, p.treatment n a = .showCommand sh) ∧ v = 0x8003
        | .priceWrite m => m = n ∧ p.busy .order = false ∧ ∃ k, p.treatment n a = .price k
        | .clockSetDay m => m = n ∧ p.busy .clock = false ∧ p.treatment n a = .clockDay
        | .clockSetMinute m => m = n ∧ p.busy .clock = false ∧ p.treatment n a = .clockMinute
        | .takeWrite m => m = n ∧ p.busy .log = false ∧ p.treatment n a = .takeIndex
        | _ => False) →
      ∃ t, exec c s = .next { s with part := t } ∧ p.Refuses t n a e

/-- TAKE_WRITE by an ACTIVE lane 0 (R166): taken when the value is below the capacity and the distance is at most the
used count; the take index becomes the value and the used count falls by the distance, or to 0 when every entry was
used and the distance is 0. Any other value is refused BAD_TAKE. -/
def Obligations.TakeWrite : Prop :=
  ∀ (s : State) (a : Addr) (v : Word), let p := s.part
    let l := p.log
    let d := (v.toNat + l.capacity - l.take) % l.capacity
    p.offers 0 a v .takeIndex .log → (p.lane 0).lapsed = false →
    (v.toNat < l.capacity ∧ d ≤ l.used →
      ∃ t, exec (.takeWrite 0) s = .next { s with part := t } ∧
        Part.Placed { p.afterWrite 0 with log := { l with
          take := v.toNat, used := if d = 0 ∧ l.used = l.capacity then 0 else l.used - d } } t ∧
        (p.room 2 → (t.lane 0).access = none ∧ (p.noPass (addrOf 0x39) → queueFind t.queue (addrOf 0x39) = some v))) ∧
    (¬(v.toNat < l.capacity ∧ d ≤ l.used) →
      ∃ t, exec (.takeWrite 0) s = .next { s with part := t } ∧ p.Refuses t 0 a .badTake)

/-! ### Attention -/

/-- In SWEEPING and RUNNING a lane's own flag word has the CLEAR-ON-ONE treatment, its own mask word, and to lane 0 every
mask word, the MASK treatment; a write of another lane is refused READ_ONLY (R154, R156). FLAG_CLEAR, from an ACTIVE or
LAPSED lane: each position written 1 clears that flag; clearing REFUSED makes the refusal count 0; the flag word is placed
with the flags that remain, the count and cause words if they change, and no other word, the written value not at all;
a write of 0000h places nothing (R154). MASK_WRITE, from an ACTIVE or LAPSED lane:
the mask of the addressed lane is the written value, its flags are unchanged (R156). Address, reason and every other
lane's flags, mask and record are unchanged, and with room the write completes and the ATN line follows (R157). -/
def Obligations.FlagClearAndMaskWrite : Prop :=
  (∀ (p : Part) (n m : Lane), p.accepted = true →
    p.treatment n (laneAddr m 0) = (if n = m then .flagWord else .readOnly) ∧
    p.treatment n (laneAddr m 1) = (if n = m ∨ n = 0 then .maskWord m else .readOnly)) ∧
  (∀ (n m : Lane) (s : State) (a : Addr) (v : Word), let p := s.part
    p.calm → p.accepted = true → p.laneWrite n = some (a, v) → n ≠ m →
    a = laneAddr m 0 ∨ a = laneAddr m 1 ∧ n ≠ 0 →
    ∃ t, exec (.ownedWrite n) s = .next { s with part := t } ∧ p.Refuses t n a .readOnly) ∧
  (∀ (n : Lane) (s : State) (a : Addr) (v : Word), let p := s.part
    p.offers n a v .flagWord .attention →
    ∃ t, exec (.flagClear n) s = .next { s with part := t } ∧
      Part.Placed { p.afterWrite n with attention := t.attention } t ∧ (∀ m, m ≠ n → t.att m = p.att m) ∧
      t.att n = { p.att n with
        flags := (p.att n).flags &&& ~~~v
        count := if Flag.refused.isIn (p.att n).flags = true ∧ Flag.refused.isIn v = true then 0 else (p.att n).count
        line := (t.att n).line } ∧
      (v = 0 → t.queue = p.queue) ∧
      (p.room 3 → (t.lane n).access = none ∧ (t.att n).line = (t.att n).raised ∧
        ((t.att n).flags ≠ (p.att n).flags → p.noPass (laneAddr n 0) →
          queueFind t.queue (laneAddr n 0) = some (t.att n).flags) ∧
        (causeWord (t.att n).cause ≠ causeWord (p.att n).cause → p.noPass (laneAddr n 2) →
          queueFind t.queue (laneAddr n 2) = some (causeWord (t.att n).cause)) ∧
        (wordOf (t.att n).count ≠ wordOf (p.att n).count → p.noPass (laneAddr n 6) →
          queueFind t.queue (laneAddr n 6) = some (wordOf (t.att n).count)) ∧
        (∀ x, queueFind t.queue x ≠ queueFind p.queue x →
          x = laneAddr n 0 ∧ (t.att n).flags ≠ (p.att n).flags ∨
          x = laneAddr n 2 ∧ causeWord (t.att n).cause ≠ causeWord (p.att n).cause ∨
          x = laneAddr n 6 ∧ wordOf (t.att n).count ≠ wordOf (p.att n).count))) ∧
  (∀ (n m : Lane) (s : State) (a : Addr) (v : Word), let p := s.part
    p.offers n a v (.maskWord m) .attention →
    ∃ t, exec (.maskWrite n) s = .next { s with part := t } ∧
      Part.Placed { p.afterWrite n with attention := t.attention } t ∧ (∀ k, k ≠ m → t.att k = p.att k) ∧
      t.att m = { p.att m with mask := v, line := (t.att m).line } ∧
      (p.room 2 → (t.lane n).access = none ∧ (t.att m).line = (t.att m).raised ∧
        (v ≠ (p.att m).mask → p.noPass (laneAddr m 1) → queueFind t.queue (laneAddr m 1) = some v) ∧
        (causeWord (t.att m).cause ≠ causeWord (p.att m).cause → p.noPass (laneAddr m 2) →
          queueFind t.queue (laneAddr m 2) = some (causeWord (t.att m).cause)) ∧
        (∀ x, queueFind t.queue x ≠ queueFind p.queue x →
          x = laneAddr m 1 ∧ v ≠ (p.att m).mask ∨
          x = laneAddr m 2 ∧ causeWord (t.att m).cause ≠ causeWord (p.att m).cause)))

/-- SET_REQUEST: the named flag of the named lane is set, whatever its mask; a flag that is set stays set, and no
other flag, mask or record changes (R153). SHOW_CHANGE is set for all six lanes (R152). The asking block goes on with
the rest of its decision. -/
def Obligations.SetRequest : Prop :=
  (∀ (b : Block) (n : Lane) (f : Flag) (rest : List Act) (parts : Bool) (s : State), let p := s.part
    b ≠ .attention → p.freeFor .attention → p.accepted = true → p.task b = ⟨.flag n f :: rest, parts⟩ →
    stops parts rest →
    ∃ t, exec (.setRequest b) s = .next { s with part := t } ∧
      Part.Placed { p with attention := t.attention } t ∧ (∀ m, m ≠ n → t.att m = p.att m) ∧
      t.att n = { p.att n with flags := (p.att n).flags ||| f.mask, line := (t.att n).line } ∧
      (t.task b).acts = rest) ∧
  (∀ (b : Block) (rest : List Act) (parts : Bool) (s : State), let p := s.part
    b ≠ .attention → p.freeFor .attention → p.accepted = true → p.task b = ⟨.showChange :: rest, parts⟩ →
    stops parts rest →
    ∃ t, exec (.setRequest b) s = .next { s with part := t } ∧
      Part.Placed { p with attention := t.attention } t ∧
      (∀ n, t.att n = { p.att n with
        flags := (p.att n).flags ||| Flag.showChange.mask, line := (t.att n).line }) ∧
      (t.task b).acts = rest)

/-! ### The lane watch -/

/-- The heartbeat writes of a lane whose watch has not just run out (R43, R44). ENABLE with a valid mode and interval
on a watch that is OFF starts it; on a WATCHING or LAPSED lane it is refused WATCH_SET. REFRESH on an ACTIVE lane
restarts a WATCHING watch's countdown and clears the quiet mark; on a LAPSED lane it is refused SEQUENCE. REJOIN of a
LAPSED lane whose lapse release and slot teardown are carried out makes it ACTIVE with a fresh countdown; while one is
waiting, or its decision is not complete (the model's choice, log 52), it is refused BUSY. An ENABLE of a bad mode or interval, and every other value, is refused BAD_REQUEST; that the
row of ENABLE refuses the other values is the model's choice (log 6). A taken one changes nothing else, and with room it
completes with its value placed and the lane state word, if it changes, rewritten. -/
def Obligations.HeartbeatWrites : Prop :=
  ∀ (n : Lane) (s : State) (a : Addr) (v : Word), let p := s.part
    let l := p.lane n
    let word (w : LaneIf) : Word := laneStateWord w (p.holdCount n) p.hold.quota[n]
    let taken (c : Instr) (w : LaneIf) : Prop := ∃ t, exec c s = .next { s with part := t } ∧
      Part.Placed ((p.afterWrite n).setLane n fun _ => w) t ∧
      (p.room 2 → (t.lane n).access = none ∧ (p.noPass a → queueFind t.queue a = some v) ∧
        (word l ≠ word w → p.noPass (laneAddr n 8) → queueFind t.queue (laneAddr n 8) = some (word w)))
    let refused (c : Instr) (r : Reason) : Prop := ∃ t, exec c s = .next { s with part := t } ∧ p.Refuses t n a r
    let fresh : LaneIf := { l with
      quiet := false, watch := { l.watch with countdown := intervalSeconds l.watch.interval } }
    p.offers n a v .heartbeat (.lane n) → l.watchExpired = false →
    (Heartbeat.ofWord v = .undefined → refused (.enable n) .badRequest) ∧
    (∀ w, Heartbeat.ofWord v = .enable w →
      (l.lapsed = false → l.watch.on = false →
        (∀ m i, w = some (m, i) → taken (.enable n) { l with watch := ⟨true, m, i, intervalSeconds i⟩ }) ∧
        (w = none → refused (.enable n) .badRequest)) ∧
      (l.lapsed = true ∨ l.watch.on = true → refused (.enable n) .watchSet)) ∧
    (Heartbeat.ofWord v = .refresh →
      (l.lapsed = false → taken (.refresh n) (if l.watch.on then fresh else l)) ∧
      (l.lapsed = true → refused (.refresh n) .sequence)) ∧
    (Heartbeat.ofWord v = .rejoin →
      (l.lapsed = true → l.watch.on = true → l.releaseDue = false → l.teardownDue = false →
        taken (.rejoin n) { fresh with lapsed := false }) ∧
      (l.lapsed = true → l.releaseDue = true ∨ l.teardownDue = true → refused (.rejoin n) .busy) ∧
      (l.lapsed = false → taken (.rejoin n) (if l.watch.on then fresh else l)))

/-- The expiry of a watch that has run out. WATCH_NOTICE: the quiet mark is set, the countdown is the interval again
and the lane stays ACTIVE (R46). LAPSE: the lane is LAPSED with its quiet mark set; its lapse release and slot
teardown are asked for after its word and flags, or are left for then (R47). The lane state word is rewritten at each.
Beside attention flags nothing else changes; with the attention unit free and room for the words, LANE_QUIET is set for
lane 0, at a LAPSE with LAPSED for the lane, and the two are asked for. -/
def Obligations.WatchExpiry : Prop :=
  ∀ (n : Lane) (s : State), let p := s.part
    let l := p.lane n
    let rewritten (t : Part) : Prop := p.room 1 → p.noPass (laneAddr n 8) →
      queueFind t.queue (laneAddr n 8) = some (laneStateWord (t.lane n) (p.holdCount n) p.hold.quota[n])
    p.freeFor (.lane n) → p.accepted = true → l.watch.on = true → l.lapsed = false → l.watch.countdown = 0 →
    (l.watch.lapseMode = false → ∃ t, exec (.watchNotice n) s = .next { s with part := t } ∧
      Part.Flagged (p.setLane n fun l => { l with
        quiet := true, watch := { l.watch with countdown := intervalSeconds l.watch.interval } }) t ∧
      rewritten t ∧
      (p.room 3 → p.busy .attention = false → Flag.laneQuiet.isIn (t.att 0).flags = true)) ∧
    (l.watch.lapseMode = true → ∃ t, exec (.lapse n) s = .next { s with part := t } ∧
      rewritten t ∧
      ∃ asked : Bool,
        Part.Flagged (p.setLane n fun l => { l with
          lapsed := true, quiet := true, releaseDue := l.releaseDue || asked, teardownDue := l.teardownDue || asked }) t ∧
        (asked = false → .lapseAsk n ∈ (t.task (.lane n)).acts) ∧
        (p.room 5 → p.busy .attention = false → asked = true ∧
          Flag.lapsed.isIn (t.att n).flags = true ∧ Flag.laneQuiet.isIn (t.att 0).flags = true))

/-! ### Shows, prices and sweeps -/

/-- SHOW_RECORD_WRITE by an ACTIVE lane 0 (R9): refused SHOW_BUSY while the show is not VACANT. For a VACANT show
word 0 restarts the assembly, the word at the cursor is captured and advances the cursor, and any other word is
refused SEQUENCE. A taken one reaches memory as written. -/
def Obligations.ShowRecordWrite : Prop :=
  ∀ (s : State) (a : Addr) (v : Word) (sh : ShowNo) (k : Nat), let p := s.part
    let e := p.showAt sh
    let refused (r : Reason) : Prop := ∃ t, exec (.showRecordWrite 0) s = .next { s with part := t } ∧ p.Refuses t 0 a r
    let taken (f : ShowEntry) : Prop := ∃ t, exec (.showRecordWrite 0) s = .next { s with part := t } ∧
      Part.Placed ((p.afterWrite 0).setShow sh fun _ => f) t ∧
      (p.room 1 → (t.lane 0).access = none ∧ (p.noPass a → queueFind t.queue a = some v))
    p.offers 0 a v (.showRecord sh k) .shows → (p.lane 0).lapsed = false →
    (e.state ≠ .vacant → refused .showBusy) ∧
    (e.state = .vacant → k = 0 →
      taken { e with cursor := 1, words := Vector.ofFn fun j => if j.val = 0 then some v else none }) ∧
    (e.state = .vacant → k ≠ 0 → k = e.cursor → k < 7 →
      taken { e with cursor := k + 1, words := Vector.ofFn fun j => if j.val = k then some v else e.words[j] }) ∧
    (e.state = .vacant → k ≠ 0 → k ≠ e.cursor → refused .sequence)

/-- OPEN by an ACTIVE lane 0 (R10, R11). It is refused SHOW_BUSY unless the show is VACANT, and SEQUENCE unless its
record is complete. With the open checks passed (the maps do not overlap an active show's, every value is in its range
and the cut-off lies ahead) the show goes to OPENING with its derived values and last command OPEN; SHOW_CHANGE is set
for all lanes and after it the sweep engine has its request, at once with the attention unit free and room for the state
word. Otherwise the show stays VACANT with the form-fault mark and the write is refused SHOW_FORM. A value that is no
command is refused BAD_REQUEST (R10); that the row of OPEN does so is the model's choice (log 6). -/
def Obligations.OpenShow : Prop :=
  (∀ (s : State) (a : Addr) (v : Word) (sh : ShowNo), let p := s.part
    p.offers 0 a v (.showCommand sh) .shows → (p.lane 0).lapsed = false → v ≠ 0x8001 → v ≠ 0x8002 → v ≠ 0x8003 →
    ∃ t, exec (.openShow 0) s = .next { s with part := t } ∧ p.Refuses t 0 a .badRequest) ∧
  ∀ (s : State) (a : Addr) (sh : ShowNo), let p := s.part
    let e := p.showAt sh
    let w (k : Fin 7) : Nat := e.word k
    let good : Prop := p.MayOpen sh w p.clock.minuteNo
    p.offers 0 a 0x8001 (.showCommand sh) .shows → (p.lane 0).lapsed = false →
    (e.state ≠ .vacant → ∃ t, exec (.openShow 0) s = .next { s with part := t } ∧ p.Refuses t 0 a .showBusy) ∧
    (e.state = .vacant → e.cursor ≠ 7 →
      ∃ t, exec (.openShow 0) s = .next { s with part := t } ∧ p.Refuses t 0 a .sequence) ∧
    (e.state = .vacant → e.cursor = 7 → good →
      ∃ t, exec (.openShow 0) s = .next { s with part := t } ∧
        Part.Flagged { (p.afterWrite 0).setShow sh (fun e => { e with
            state := .opening, cut := false, fault := false, last := .opened
            start := w 2 * 1440 + w 3, cutoff := w 2 * 1440 + w 3 - w 4, expiry := w 2 * 1440 + w 3 + w 5 }) with
          sweep := t.sweep } t ∧
        (t.sweep = p.sweep ∨ t.sweep = { p.sweep with requests := p.sweep.requests ++ [sh] } ∧
          ∀ n, Flag.showChange.isIn (t.att n).flags = true) ∧
        (p.room 1 → p.busy .attention = false →
          t.sweep = { p.sweep with requests := p.sweep.requests ++ [sh] })) ∧
    (e.state = .vacant → e.cursor = 7 → ¬good →
      ∃ t, exec (.openShow 0) s = .next { s with part := t } ∧
        Part.Placed ((p.afterWrite 0).setShow sh fun _ => { ShowEntry.initial with fault := true }) t ∧
        (t.task (.lane 0)).acts = (p.task (.lane 0)).acts ++ [.refusal 0 a .showForm])

/-- CUT by an ACTIVE lane 0 (R10, R14): taken on an OPEN show, which stays OPEN with its cut-requested mark set;
refused BUSY while the show is OPENING and SHOW_SHUT in the other states. PRICE_WRITE by an ACTIVE lane 0 (R56): the
order unit's copy of that price is the value, which reaches memory as written; no slot changes. -/
def Obligations.CutAndPriceWrite : Prop :=
  (∀ (s : State) (a : Addr) (sh : ShowNo), let p := s.part
    let e := p.showAt sh
    p.offers 0 a 0x8002 (.showCommand sh) .shows → (p.lane 0).lapsed = false →
    (e.state = .opened → ∃ t, exec (.cut 0) s = .next { s with part := t } ∧
      Part.Placed ((p.afterWrite 0).setShow sh fun e => { e with cut := true }) t ∧
      (p.room 1 → (t.lane 0).access = none)) ∧
    (e.state = .opening → ∃ t, exec (.cut 0) s = .next { s with part := t } ∧ p.Refuses t 0 a .busy) ∧
    (e.state ≠ .opened → e.state ≠ .opening →
      ∃ t, exec (.cut 0) s = .next { s with part := t } ∧ p.Refuses t 0 a .showShut)) ∧
  (∀ (s : State) (a : Addr) (v : Word) (k : Fin 24), let p := s.part
    p.offers 0 a v (.price k) .order → (p.lane 0).lapsed = false →
    ∃ t, exec (.priceWrite 0) s = .next { s with part := t } ∧
      Part.Placed { p.afterWrite 0 with order := { p.order with prices := p.order.prices.set k v } } t ∧
      (p.room 1 → (t.lane 0).access = none ∧ (p.noPass a → queueFind t.queue a = some v)))

/-- RETIRE by an ACTIVE lane 0, the order unit, hold unit, directory and log writer being free, taken at once (R18,
R147): on an OPEN, CUTOFF or DARK show that no slot holds from retirement and no hold entry names, with a free log
entry, each of its ISSUED and REDEEMED vouchers becomes FREE, and once the directory's decision is complete (R139), which
room for its words makes at once, the show is VACANT with its record discarded and last command RETIRE; the other shows,
the slots, the clock and the link are unchanged. In parts, the write is taken and the show table goes on to its first
question. A slot QUEUED, TENDERING, APPROVED, PRINTING, PRINT_HALTED or DONE that names the show refuses it BUSY. A
VACANT show refuses it SHOW_SHUT, an OPENING one BUSY (R10). -/
def Obligations.Retire : Prop :=
  ∀ (s : State) (a : Addr) (sh : ShowNo), let p := s.part
    let e := p.showAt sh
    let retires (i : VoucherNo) : Bool :=
      ((p.voucher i).state == .issued || (p.voucher i).state == .redeemed) && (p.voucher i).showNo == sh
    let holdsShow (sl : SlotNo) : Prop := (p.slot sl).word 0 = wordOf sh.val ∧
      ((p.slot sl).state = .queued ∨ (p.slot sl).state = .tendering ∨ (p.slot sl).state = .approved ∨
        (p.slot sl).state = .printing ∨ (p.slot sl).state = .printHalted ∨ (p.slot sl).state = .done)
    p.offers 0 a 0x8003 (.showCommand sh) .shows → (p.lane 0).lapsed = false →
    (e.state = .vacant → ∀ pace, ∃ t, exec (.retire 0 pace) s = .next { s with part := t } ∧
      p.Refuses t 0 a .showShut) ∧
    (e.state = .opening → ∀ pace, ∃ t, exec (.retire 0 pace) s = .next { s with part := t } ∧ p.Refuses t 0 a .busy) ∧
    (e.state ≠ .vacant → e.state ≠ .opening →
      (∃ t, exec (.retire 0 .parts) s = .next { s with part := t } ∧
        t = { p.afterWrite 0 with lanes := t.lanes, work := t.work } ∧
        (t.lane 0).access = some ⟨a, some 0x8003, true, false⟩ ∧ t.task .shows = ⟨[.retireLog 0 sh], true⟩) ∧
      (p.idle → (∃ sl, holdsShow sl) → p.log.used + p.log.reserved + 1 ≤ p.log.capacity →
        ∃ t, exec (.retire 0 .whole) s = .next { s with part := t } ∧ t.shows = p.shows ∧ t.directory = p.directory ∧
          t.hold = p.hold ∧ t.order = p.order ∧
          (t.task (.lane 0)).acts = (p.task (.lane 0)).acts ++ [.refusal 0 a .busy]) ∧
      (p.idle → (∀ sl, ¬holdsShow sl) → (∀ h ∈ p.hold.holds, h.showNo ≠ sh) →
        p.log.used + p.log.reserved + 1 ≤ p.log.capacity →
        ∃ t, exec (.retire 0 .whole) s = .next { s with part := t } ∧
          (∀ x, x ≠ sh → t.showAt x = p.showAt x) ∧
          (t.showAt sh = { ShowEntry.initial with last := .retired } ∨
            t.showAt sh = e ∧ t.busy .directory = true ∧ .retireDone sh ∈ (t.task .shows).acts) ∧
          (p.room (14 + ((List.finRange 256).filter retires).length) →
            Flag.logHalf.isIn (p.att 0).flags = true → Flag.logFull.isIn (p.att 0).flags = true →
            t.showAt sh = { ShowEntry.initial with last := .retired }) ∧
          (∀ i, t.voucher i = if retires i then Voucher.initial else p.voucher i) ∧
          t.order = p.order ∧ t.tender = p.tender ∧ t.clock = (p.afterWrite 0).clock ∧ t.print = p.print ∧
          t.hold.holds = p.hold.holds))

/-- OPENING_SWEEP (R12): the next cell of the map is read, from the queue or in the sweep reader's grant. A HELD cell
becomes FREE with its class, a PENDING one and one with no defined state QUERY with its holder, slot and class, and a
cell of another state loses its edit marker, a FREE or BLOCKED one with the holder 0 and slot none of R19; a cell that
stays as it was is not written. Nothing else changes. -/
def Obligations.OpeningSweep : Prop :=
  ∀ (s : State) (c : SweepPos) (w : Word), let p := s.part
    let x := p.seatAddr c.showNo c.seat
    let cell := Cell.ofWord w
    p.calm → p.accepted = true → p.headRead .setup = none → p.headRead .directory = none → p.sweepNext = some c →
    (queueFind p.queue x = some w ∨
      queueFind p.queue x = none ∧ p.firstAsker = some .sweepReader ∧ w = s.mem.read x.toNat) →
    ∃ t, exec .openingSweep s = .next { s with part := t } ∧
      Part.Placed { p with
        rotation := t.rotation
        sweep := { requests := if p.sweep.current.isSome then p.sweep.requests else p.sweep.requests.tail
                   current := some { c with
                     seat := c.seat + 1
                     query := c.query || (cell.state == cellPending || decide (6 ≤ cell.state)) } } } t ∧
      (p.room 1 → p.noPass x → queueFind t.queue x =
        if cell.state = cellHeld then some (cellWord cellFree 0 31 cell.cls)
        else if cell.state = cellPending ∨ 6 ≤ cell.state then
          some (cellWord cellQuery cell.holder cell.slot cell.cls)
        else if cell.edit = true then
          if cell.state = cellFree ∨ cell.state = cellBlocked then some (cellWord cell.state 0 31 cell.cls)
          else some (cellWord cell.state cell.holder cell.slot cell.cls)
        else queueFind p.queue x)

/-- SWEEP_END (R13), once the last cell is decided: the show goes to DARK when its start minute number has been
reached, else to CUTOFF when its cut-off has been reached or the cut-requested mark is set, else to OPEN; the
cut-requested mark is cleared but for a show that goes to OPEN. The sweep is over, and no longer holds the part from
RUNNING (R176), after QUERY_SEATS if the sweep made a QUERY. No slot, hold entry, voucher or log count changes. That
QUERY_SEATS is asked for at the sweep's end, after the show's new state, is the model's choice (log 33). -/
def Obligations.SweepEnd : Prop :=
  ∀ (s : State) (c : SweepPos), let p := s.part
    let e := p.showAt c.showNo
    let minute := p.clock.minuteNo
    p.calm → p.accepted = true → p.busy .shows = false → p.sweepEnded = some c →
    ∃ t, exec .sweepEnd s = .next { s with part := t } ∧
      (∀ x, t.showAt x = if x ≠ c.showNo then p.showAt x
        else if e.start ≤ minute then { e with state := .dark, cut := false }
        else if e.cutoff ≤ minute ∨ e.cut = true then { e with state := .cutoff, cut := false }
        else { e with state := .opened }) ∧
      t.sweep = { p.sweep with current := none } ∧
      t.hold = { p.hold with darkDue := p.hold.darkDue ++ (if e.start ≤ minute then [c.showNo] else []) } ∧
      t.order = p.order ∧ t.directory = p.directory ∧ t.log = p.log ∧ t.clock = p.clock ∧
      t.setup = { p.setup with sweepsLeft := t.setup.sweepsLeft } ∧
      (c.query = false → t.setup.sweepsLeft = p.setup.sweepsLeft.erase c.showNo) ∧
      (c.query = true → p.busy .attention = false → p.room 16 → Flag.querySeats.isIn (t.att 0).flags = true ∧
        t.setup.sweepsLeft = p.setup.sweepsLeft.erase c.showNo)

/-! ### Seats -/

/-- CLAIM of a cell that is not HELD by the lane (R25 to R27), by an ACTIVE KIOSK lane on a show that is not OPENING: on
an OPEN show a FREE cell, with the lane below its quota and an entry free, gives a hold that expires after the hold
duration, joins the expiry list at its tail, and puts the cell to HELD; otherwise nothing of the table changes and the
refusal is TAKEN, SEAT_STATE, QUOTA or HOLDS_FULL. A show that is not OPEN refuses it SHOW_SHUT. The cell is the decided
value: the queue's, or memory's in the lane's grant. -/
def Obligations.NewClaim : Prop :=
  ∀ (n : Lane) (s : State) (a : Addr) (v cell : Word) (sh : ShowNo) (i : Nat), let p := s.part
    let c := Cell.ofWord cell
    let refused (r : Reason) : Prop := ∃ t, exec (.claim n) s = .next { s with part := t } ∧
      t = { p.afterWrite n with rotation := t.rotation, lanes := t.lanes, work := t.work } ∧
      (t.task (.lane n)).acts = (p.task (.lane n)).acts ++ [.refusal n a r]
    p.offers n a v .seat .hold → (Cell.ofWord v).edit = false → (Cell.ofWord v).state = cellHeld →
    (p.lane n).role = .kiosk → (p.lane n).lapsed = false → p.seatOf a = some (sh, i) →
    ¬(c.state = cellHeld ∧ c.holder = n.val) →
    (queueFind p.queue a = some cell ∨
      queueFind p.queue a = none ∧ p.rotation.head? = some (.lane n) ∧ cell = s.mem.read a.toNat) →
    ((p.showAt sh).state ≠ .opened → (p.showAt sh).state ≠ .opening → refused .showShut) ∧
    ((p.showAt sh).state = .opened →
      (c.state = cellFree → p.holdCount n < p.hold.quota[n] → p.hold.holds.length < 128 →
        ∃ t, exec (.claim n) s = .next { s with part := t } ∧
          Part.Placed { p.afterWrite n with
            rotation := t.rotation
            hold := { p.hold with holds := p.hold.holds ++ [{
              showNo := sh, seat := i, lane := n, cls := c.cls
              expiry := p.clock.run + BitVec.ofNat 24 p.hold.duration
              renewals := 0, warned := false, slot := none }] } } t ∧
          (p.room 5 → (t.lane n).access = none ∧
            (p.noPass a → queueFind t.queue a = some (cellWord cellHeld n.val 31 c.cls)))) ∧
      (c.state = cellHeld → refused .taken) ∧
      (c.state ≠ cellFree → c.state ≠ cellHeld → refused .seatState) ∧
      (c.state = cellFree → p.hold.quota[n] ≤ p.holdCount n → refused .quota) ∧
      (c.state = cellFree → p.holdCount n < p.hold.quota[n] → 128 ≤ p.hold.holds.length → refused .holdsFull))

/-- The gates of a seat write, before its cell is read (R24, R25): a claim value of a lane that is no KIOSK and an edit
value of lanes 1 to 5 are refused ROLE, a LAPSED lane's LAPSED, a word outside every active map NO_SEAT, and a seat of an
OPENING show SWEEPING. A claim value on a cell that the lane does not hold: SEAT_RELEASE is refused NOT_YOURS when
another lane holds it, else SEAT_STATE (R30); a request that is neither HELD nor FREE is refused BAD_REQUEST (R25), which
the row of CLAIM does by the model's choice (log 6). In the part state SWEEPING every write to the SEAT window is refused
SWEEPING (R59), by the seat row of its value, the model's choice too (log 6). -/
def Obligations.SeatRefusals : Prop :=
  (∀ (n : Lane) (pace : Pace) (s : State) (a : Addr) (v : Word), let p := s.part
    let x := Cell.ofWord v
    let c : Instr := if x.edit then .edit n pace else if x.state = cellFree then .seatRelease n else .claim n
    p.calm → p.laneWrite n = some (a, v) → p.mode = .sweeping → p.region a = .seat →
    ∃ t, exec c s = .next { s with part := t } ∧ p.Refuses t n a .sweeping) ∧
  (∀ (n : Lane) (pace : Pace) (s : State) (a : Addr) (v : Word), let p := s.part
    let x := Cell.ofWord v
    let c : Instr := if x.edit then .edit n pace else if x.state = cellFree then .seatRelease n else .claim n
    let barred : Prop := if x.edit then n ≠ 0 else (p.lane n).role ≠ .kiosk
    let refused (r : Reason) : Prop := ∃ t, exec c s = .next { s with part := t } ∧ p.Refuses t n a r
    p.offers n a v .seat .hold →
    (barred → refused .role) ∧ (¬barred → (p.lane n).lapsed = true → refused .lapsed) ∧
    (¬barred → (p.lane n).lapsed = false →
      (p.seatOf a = none → refused .noSeat) ∧
      (∀ sh i, p.seatOf a = some (sh, i) → (p.showAt sh).state = .opening → refused .sweeping))) ∧
  (∀ (n : Lane) (s : State) (a : Addr) (v cell : Word) (sh : ShowNo) (i : Nat), let p := s.part
    let x := Cell.ofWord v
    let c := Cell.ofWord cell
    let refused (c : Instr) (r : Reason) : Prop := ∃ t, exec c s = .next { s with part := t } ∧
      t = { p.afterWrite n with rotation := t.rotation, lanes := t.lanes, work := t.work } ∧
      (t.task (.lane n)).acts = (p.task (.lane n)).acts ++ [.refusal n a r]
    p.offers n a v .seat .hold → x.edit = false → (p.lane n).role = .kiosk → (p.lane n).lapsed = false →
    p.seatOf a = some (sh, i) → (p.showAt sh).state ≠ .opening →
    (queueFind p.queue a = some cell ∨
      queueFind p.queue a = none ∧ p.rotation.head? = some (.lane n) ∧ cell = s.mem.read a.toNat) →
    (x.state = cellFree → c.state = cellHeld → c.holder ≠ n.val → refused (.seatRelease n) .notYours) ∧
    (x.state = cellFree → c.state ≠ cellHeld → refused (.seatRelease n) .seatState) ∧
    (x.state ≠ cellFree → x.state ≠ cellHeld → refused (.claim n) .badRequest))

/-- A claim on a cell HELD by the lane, whose hold entry is `h`. CLAIM renews it while it has fewer than 3 renewals and
the show is not DARK: the entry moves to the tail with a fresh expiry, one renewal more and the warned mark clear; the
cell is not written (R28); with 3 it is refused RENEW_LIMIT, on a DARK show SHOW_SHUT. SEAT_RELEASE removes the entry and
puts the cell to FREE (R30). -/
def Obligations.RenewalAndRelease : Prop :=
  ∀ (n : Lane) (s : State) (a : Addr) (v cell : Word) (sh : ShowNo) (i : Nat) (h : Hold), let p := s.part
    let c := Cell.ofWord cell
    let refused (r : Reason) : Prop := ∃ t, exec (.claim n) s = .next { s with part := t } ∧
      t = { p.afterWrite n with rotation := t.rotation, lanes := t.lanes, work := t.work } ∧
      (t.task (.lane n)).acts = (p.task (.lane n)).acts ++ [.refusal n a r]
    p.offers n a v .seat .hold → (Cell.ofWord v).edit = false →
    (p.lane n).role = .kiosk → (p.lane n).lapsed = false → p.seatOf a = some (sh, i) →
    (p.showAt sh).state ≠ .opening → c.state = cellHeld → c.holder = n.val → p.holdOf sh i = some h →
    (queueFind p.queue a = some cell ∨
      queueFind p.queue a = none ∧ p.rotation.head? = some (.lane n) ∧ cell = s.mem.read a.toNat) →
    ((Cell.ofWord v).state = cellHeld →
      ((p.showAt sh).state = .dark → refused .showShut) ∧
      ((p.showAt sh).state ≠ .dark → 3 ≤ h.renewals → refused .renewLimit) ∧
      ((p.showAt sh).state ≠ .dark → h.renewals < 3 →
        ∃ t, exec (.claim n) s = .next { s with part := t } ∧
          Part.Placed { p.afterWrite n with
            rotation := t.rotation
            hold := { p.hold with holds := p.hold.holds.erase h ++ [{ h with
              expiry := p.clock.run + BitVec.ofNat 24 p.hold.duration
              renewals := h.renewals + 1, warned := false }] } } t ∧
          (p.room 3 → (t.lane n).access = none))) ∧
    ((Cell.ofWord v).state = cellFree →
      ∃ t, exec (.seatRelease n) s = .next { s with part := t } ∧
        Part.Placed { p.afterWrite n with
          rotation := t.rotation, hold := { p.hold with holds := p.hold.holds.erase h } } t ∧
        (p.room 5 → (t.lane n).access = none ∧
          (p.noPass a → queueFind t.queue a = some (cellWord cellFree 0 31 h.cls))))

/-- EDIT by an ACTIVE lane 0 on a seat of a show that is not OPENING (R39 to R41). A HELD or PENDING cell refuses it
BUSY. A FREE or BLOCKED cell takes a target FREE or BLOCKED with the value's class and no holder or slot. A SOLD cell
with the target FREE asks the log writer for a REFUND entry, a QUERY cell with the target FREE or SOLD for a
QUERY_RESOLVED entry: in parts with a row of its own; at once, with the log writer free, the entry is written and the cell
changed, or a log with no free entry refuses the write LOG_FULL. Every other target is refused BAD_REQUEST. No hold entry
changes. -/
def Obligations.Edit : Prop :=
  ∀ (pace : Pace) (s : State) (a : Addr) (v cell : Word) (sh : ShowNo) (i : Nat), let p := s.part
    let c := Cell.ofWord cell
    let e := Cell.ofWord v
    let refused (r : Reason) : Prop := ∃ t, exec (.edit 0 pace) s = .next { s with part := t } ∧
      t = { p.afterWrite 0 with rotation := t.rotation, lanes := t.lanes, work := t.work } ∧
      (t.task (.lane 0)).acts = (p.task (.lane 0)).acts ++ [.refusal 0 a r]
    let price : Nat := (p.order.prices[Fin.ofNat 24 (c.cls % 8)]).toNat
    let base := p.base (·.logBase) + 8 * p.log.write
    let logs (w : Word) (kind : LogKind) (detail value : Nat) : Prop :=
      let d : Draft := { kind, detail, lane := c.holder, slot := c.slot, showNo := sh.val, value, text := seatText i }
      (pace = .parts → ∃ t, exec (.edit 0 pace) s = .next { s with part := t } ∧
        t = { p.afterWrite 0 with rotation := t.rotation, lanes := t.lanes, work := t.work } ∧
        t.task .hold = ⟨[.editLog 0 a w d], true⟩) ∧
      (pace = .whole → p.busy .log = false →
        (p.log.room = 0 → ∃ t, exec (.edit 0 pace) s = .next { s with part := t } ∧ t.log = p.log ∧ t.hold = p.hold ∧
          (t.task (.lane 0)).acts = (p.task (.lane 0)).acts ++ [.refusal 0 a .logFull]) ∧
        (1 ≤ p.log.room → ∃ t, exec (.edit 0 pace) s = .next { s with part := t } ∧ t.hold = p.hold ∧
          t.order = p.order ∧ t.directory = p.directory ∧
          (p.queue = [] → (∀ m, p.passedWrite m = none) → 0x160 ≤ base → base + 8 ≤ 0x40000 →
            a.toNat < base ∨ base + 8 ≤ a.toNat →
            t.log = { p.log with write := (p.log.write + 1) % p.log.capacity, used := p.log.used + 1 } ∧
            (t.lane 0).access = none ∧ queueFind t.queue a = some w ∧
            ∀ k : Fin 8, queueFind t.queue (addrOf (base + k.val)) = (d.words p.clock.minuteNo)[k.val]?)))
    p.offers 0 a v .seat .hold → e.edit = true → (p.lane 0).lapsed = false → p.seatOf a = some (sh, i) →
    (p.showAt sh).state ≠ .opening →
    (queueFind p.queue a = some cell ∨
      queueFind p.queue a = none ∧ p.rotation.head? = some (.lane 0) ∧ cell = s.mem.read a.toNat) →
    (c.state = cellHeld ∨ c.state = cellPending → refused .busy) ∧
    (c.state = cellFree ∨ c.state = cellBlocked →
      (e.state = cellFree ∨ e.state = cellBlocked →
        ∃ t, exec (.edit 0 pace) s = .next { s with part := t } ∧
          Part.Placed { p.afterWrite 0 with rotation := t.rotation } t ∧
          (p.room 1 → (t.lane 0).access = none ∧
            (p.noPass a → queueFind t.queue a = some (cellWord e.state 0 31 e.cls)))) ∧
      (e.state ≠ cellFree → e.state ≠ cellBlocked → refused .badRequest)) ∧
    (c.state = cellSold →
      (e.state = cellFree → logs (cellWord cellFree 0 31 e.cls) .refund 0 price) ∧
      (e.state ≠ cellFree → refused .badRequest)) ∧
    (c.state = cellQuery →
      (e.state = cellFree → logs (cellWord cellFree 0 31 e.cls) .queryResolved 0 0) ∧
      (e.state = cellSold → logs (cellWord cellSold 0 31 c.cls) .queryResolved 3 price) ∧
      (e.state ≠ cellFree → e.state ≠ cellSold → refused .badRequest))

/-- EXPIRY_REMOVAL within a round (R31): the head of the expiry list, its expiry second reached, leaves the table; its
cell goes to FREE with its class, and HOLD_LOST is set for its lane. WARNING_PASS at the round's end (R32): the earliest
HELD entry of each lane, if its remaining time is within the warn lead and it is not yet warned, is marked, and HOLD_WARN
is set for the lane; the round is over. Words and flags with room, and with the attention unit free. -/
def Obligations.ExpiryAndWarning : Prop :=
  (∀ (s : State) (h : Hold), let p := s.part
    p.freeFor .hold → p.accepted = true → p.hold.round = true → p.hold.holds.find? Hold.held = some h →
    reached p.clock.run h.expiry = true →
    ∃ t, exec .expiryRemoval s = .next { s with part := t } ∧
      Part.Flagged { p with hold := { p.hold with holds := p.hold.holds.erase h } } t ∧
      (p.room 1 → p.busy .attention = false → Flag.holdLost.isIn (t.att h.lane).flags = true) ∧
      (p.room 1 → (∀ n, p.passedWrite n = none) → 0x160 ≤ (p.seatAddr h.showNo h.seat).toNat →
        queueFind t.queue (p.seatAddr h.showNo h.seat) = some (cellWord cellFree 0 31 h.cls))) ∧
  (∀ s : State, let p := s.part
    let warned (h : Hold) : Prop :=
      p.earliestHold h.lane = some h ∧ (h.expiry - p.clock.run).toNat ≤ p.hold.warnLead ∧ h.warned = false
    p.freeFor .hold → p.accepted = true → p.hold.round = true → p.dueHold = none →
    ∃ t, exec .warningPass s = .next { s with part := t } ∧
      Part.Flagged { p with hold := { p.hold with
        round := false, holds := p.hold.holds.map fun h => if warned h then { h with warned := true } else h } } t ∧
      (p.room 12 → p.busy .attention = false →
        ∀ h ∈ p.hold.holds, warned h → Flag.holdWarn.isIn (t.att h.lane).flags = true))

/-- The bulk releases (R34): a DARK_RELEASE that the show table asked for removes every HELD entry of the show, a
LAPSE_RELEASE that the lane interface asked for every HELD entry of the lane; PENDING entries and the other HELD ones
stay, in their order. With room, the attention unit free and one entry removed, its seat cell is FREE with its class,
HOLD_LOST is set for its lane, and the words of that lane are rewritten, its earliest-hold mirror whatever it held. -/
def Obligations.BulkReleases : Prop :=
  let freed (p t : Part) (covered : Hold → Bool) : Prop :=
    ∀ h, p.hold.holds.filter covered = [h] → p.room 7 → p.busy .attention = false → (∀ n, p.passedWrite n = none) →
      0x160 ≤ (p.seatAddr h.showNo h.seat).toNat →
      queueFind t.queue (p.seatAddr h.showNo h.seat) = some (cellWord cellFree 0 31 h.cls) ∧
      Flag.holdLost.isIn (t.att h.lane).flags = true ∧
      queueFind t.queue (laneAddr h.lane 8)
        = some (laneStateWord (t.lane h.lane) (t.holdCount h.lane) p.hold.quota[h.lane]) ∧
      ∀ k : Fin 3, queueFind t.queue (laneAddr h.lane (9 + k.val)) = some (mirrorWords (t.earliestHold h.lane))[k]
  (∀ (sh : ShowNo) (s : State), let p := s.part
    let covered (h : Hold) : Bool := h.slot.isNone && h.showNo == sh
    p.freeFor .hold → p.accepted = true → sh ∈ p.hold.darkDue →
    ∃ t, exec (.darkRelease sh) s = .next { s with part := t } ∧
      Part.Flagged { p with hold := { p.hold with
        darkDue := p.hold.darkDue.erase sh, holds := p.hold.holds.filter fun h => !covered h } } t ∧
      freed p t covered) ∧
  (∀ (n : Lane) (s : State), let p := s.part
    let covered (h : Hold) : Bool := h.slot.isNone && h.lane == n
    p.freeFor .hold → p.accepted = true → (p.lane n).releaseDue = true →
    ∃ t, exec (.lapseRelease n) s = .next { s with part := t } ∧
      t.hold = { p.hold with holds := p.hold.holds.filter fun h => !covered h } ∧
      t.order = p.order ∧ t.shows = p.shows ∧ t.clock = p.clock ∧ t.tender = p.tender ∧ t.print = p.print ∧
      t.directory = p.directory ∧ t.log = p.log ∧
      ((t.lane n).releaseDue = false ∨ .releaseDone n ∈ (t.task .hold).acts) ∧
      freed p t covered)

/-- PEND_REQUEST of a close (R35, R80), the hold unit being free and the decision taken in parts. When every seat of the
slot's list has an entry HELD by the owner and the owner is ACTIVE, those entries carry the slot, their warned marks are
cleared, and the answer brings the classes. With vouchers asked for the order unit goes on to their reservation; with
none it goes on at once: with an amount above 0, the sum of the seats' class prices (R81), the slot is led to QUEUED with
two reservations, with room at the tail of the payment queue (R82), and with an amount of 0 to its approval, beginning
with the sale request (R82, R86). Otherwise the hold table stays, and the slot will be REFUSED with HOLD_MISSING. -/
def Obligations.PendRequest : Prop :=
  ∀ (sl : SlotNo) (rest : List Act) (s : State), let p := s.part
    let x := p.slot sl
    p.freeFor .hold → p.accepted = true → p.task .order = ⟨.pend sl :: rest, true⟩ →
    (∀ hs, (p.lane x.ownerLane).lapsed = false →
      x.seats.mapM (fun i => (p.holdOf x.showNo i).filter fun h => h.lane == x.ownerLane && h.held) = some hs →
      0 < x.voucherCount →
      ∃ t, exec .pendRequest s = .next { s with part := t } ∧
        Part.Placed { p with hold := { p.hold with holds := p.hold.holds.map fun h =>
          if h ∈ hs then { h with slot := some sl, warned := false } else h } } t ∧
        t.task .order = ⟨.closeReserve sl (hs.map (·.cls)) :: rest, true⟩) ∧
    (∀ (n : Lane) (a : Addr) (v : Word) (hs : List Hold), rest = [.place a v, .finish n] →
      (p.lane x.ownerLane).lapsed = false →
      x.seats.mapM (fun i => (p.holdOf x.showNo i).filter fun h => h.lane == x.ownerLane && h.held) = some hs →
      x.voucherCount = 0 →
      let amount := (hs.map fun h => p.classPrice h.cls).sum
      let pended : List Hold := p.hold.holds.map fun h =>
        if h ∈ hs then { h with slot := some sl, warned := false } else h
      let y : Shadow := { x with vouchers := [], amount := some amount, reserved := 2 }
      ∃ t, exec .pendRequest s = .next { s with part := t } ∧
        Part.Placed { p with hold := { p.hold with holds := pended }, order := t.order } t ∧
        (∀ m, m ≠ sl → t.slot m = p.slot m) ∧ t.order.prices = p.order.prices ∧ t.order.due = p.order.due ∧
        (0 < amount → t.slotAfter sl = { y with state := .queued } ∧
          (sl ∉ p.order.payQueue → x.vouchers = [] → p.room (x.seatCount + 7) →
            t.slot sl = { y with state := .queued } ∧ t.order.payQueue = p.order.payQueue ++ [sl] ∧
            (t.task .order).acts = [] ∧ (t.lane n).access = none)) ∧
        (amount = 0 → t.slot sl = y ∧ t.order.payQueue = p.order.payQueue ∧
          t.slotAfter sl = { y with
            state := .approved, reserved := 0, auth := some #v[0x20, 0x20, 0x20, 0x20, 0x20, 0x20] } ∧
          t.task .order = ⟨[.sale sl,
            .writeReserved (outcomeDraft .approved sl y #v[0x2020, 0x2020, 0x2020]), .handBack 1,
            .approve sl #v[0x20, 0x20, 0x20, 0x20, 0x20, 0x20] x, .handoff sl .preferred, .place a v, .finish n], true⟩)) ∧
    ((p.lane x.ownerLane).lapsed = true ∨
        x.seats.mapM (fun i => (p.holdOf x.showNo i).filter fun h => h.lane == x.ownerLane && h.held) = none →
      ∃ t, exec .pendRequest s = .next { s with part := t } ∧
        t = { p with work := t.work } ∧
        t.task .order = ⟨[.handBack 2, .refuseSlot sl .holdMissing] ++ rest, true⟩)

/-- SALE_REQUEST, DROP_REQUEST and RETURN_REQUEST, asked by the order unit while the hold unit is free. A sale and a drop
free every entry PENDING for the slot (R36, R38); a return puts each such seat of the slot's list back to HELD at the
tail of the expiry list with a fresh expiry, or frees it when its show is DARK or its lane LAPSED (R37). The other
entries keep their order, nothing else changes but flags, and the order unit goes on with the rest of its decision. -/
def Obligations.SaleDropReturn : Prop :=
  (∀ (sl : SlotNo) (rest : List Act) (parts : Bool) (s : State), let p := s.part
    p.freeFor .hold → p.accepted = true → p.task .order = ⟨.sale sl :: rest, parts⟩ → stops parts rest →
    ∃ t, exec .saleRequest s = .next { s with part := t } ∧ (t.task .order).acts = rest ∧
      Part.Placed { p with hold := { p.hold with holds := p.hold.holds.filter fun h => h.slot != some sl } } t ∧
      ∀ h, p.hold.holds.filter (fun h => h.slot == some sl) = [h] → p.room 5 → (∀ n, p.passedWrite n = none) →
        0x160 ≤ (p.seatAddr h.showNo h.seat).toNat →
        queueFind t.queue (p.seatAddr h.showNo h.seat) = some (cellWord cellSold h.lane.val sl.val h.cls)) ∧
  (∀ (sl : SlotNo) (rest : List Act) (parts : Bool) (s : State), let p := s.part
    p.freeFor .hold → p.accepted = true → p.task .order = ⟨.drop sl :: rest, parts⟩ → stops parts rest →
    ∃ t, exec .dropRequest s = .next { s with part := t } ∧ (t.task .order).acts = rest ∧
      Part.Flagged { p with hold := { p.hold with holds := p.hold.holds.filter fun h => h.slot != some sl } } t) ∧
  (∀ (sl : SlotNo) (rest : List Act) (parts : Bool) (s : State), let p := s.part
    let back := (p.slot sl).seats.filterMap fun i =>
      (p.hold.holds.filter fun h => h.slot == some sl).find? fun h => h.seat == i
    let kept := back.filter fun h => (p.showAt h.showNo).state != .dark && !(p.lane h.lane).lapsed
    p.freeFor .hold → p.accepted = true → p.task .order = ⟨.returnSeats sl :: rest, parts⟩ → stops parts rest →
    ∃ t, exec .returnRequest s = .next { s with part := t } ∧ (t.task .order).acts = rest ∧
      Part.Flagged { p with hold := { p.hold with holds :=
        (p.hold.holds.filter fun h => !back.contains h) ++ kept.map fun h => { h with
          slot := none, expiry := p.clock.run + BitVec.ofNat 24 p.hold.duration, warned := false } } } t)

/-- HOLD_QUESTION while the hold unit is free, in a decision taken in parts. At check 3 of a close (R79) a missing
hold puts the slot to REFUSED with HOLD_MISSING; with every hold present and no voucher asked for, the order unit goes
on to check 5, and with vouchers asked for to check 4: it waits for a busy directory, and of a free one too few FREE
vouchers put the slot to REFUSED with NO_VOUCHER, enough let it go on to check 5. At a RETIRE (R18) a hold entry that
names the show refuses the write BUSY and the reservation is handed back; with none the show table goes on to the
vouchers, and the hold unit takes no further request until the show is VACANT (the model's reading, log 26). That a DARK
release of the show that still waits is then dropped is the model's reading too (log 27). The question changes no hold
entry. -/
def Obligations.HoldQuestion : Prop :=
  (∀ (n : Lane) (a : Addr) (v : Word) (sl : SlotNo) (s : State), let p := s.part
    let x := p.slot sl
    p.freeFor .hold → p.accepted = true → p.task .order = ⟨[.closeHolds sl, .place a v, .finish n], true⟩ →
    ((heldSeats p x.ownerLane x.showNo x.seats).isSome = true → x.voucherCount = 0 →
      ∃ t, exec (.holdQuestion .order) s = .next { s with part := t } ∧ t = { p with work := t.work } ∧
        t.task .order = ⟨[.closeLog sl, .place a v, .finish n], true⟩) ∧
    ((heldSeats p x.ownerLane x.showNo x.seats).isSome = true → x.voucherCount ≠ 0 → p.busy .directory = true →
      ∃ t, exec (.holdQuestion .order) s = .next { s with part := t } ∧
        t = { p with work := t.work, waiters := t.waiters } ∧
        t.task .order = ⟨[.closeDirectory sl, .place a v, .finish n], true⟩) ∧
    ((heldSeats p x.ownerLane x.showNo x.seats).isSome = true → x.voucherCount ≠ 0 → p.busy .directory = false →
      (x.voucherCount ≤ p.directory.free.length →
        ∃ t, exec (.holdQuestion .order) s = .next { s with part := t } ∧ t = { p with work := t.work } ∧
          t.task .order = ⟨[.closeLog sl, .place a v, .finish n], true⟩) ∧
      (p.directory.free.length < x.voucherCount →
        ∃ t, exec (.holdQuestion .order) s = .next { s with part := t } ∧ t.hold = p.hold ∧
          t.slotAfter sl = { x with state := .refused, reason := some .noVoucher })) ∧
    ((heldSeats p x.ownerLane x.showNo x.seats).isSome = false →
      ∃ t, exec (.holdQuestion .order) s = .next { s with part := t } ∧ t.hold = p.hold ∧
        t.slotAfter sl = { x with state := .refused, reason := some .holdMissing })) ∧
  (∀ (n : Lane) (sh : ShowNo) (a : Addr) (v : Word) (s : State), let p := s.part
    p.freeFor .hold → p.accepted = true → (p.lane n).access = some ⟨a, some v, true, false⟩ →
    p.task .shows = ⟨[.retireHolds n sh], true⟩ →
    ((∃ h ∈ p.hold.holds, h.showNo = sh) →
      ∃ t, exec (.holdQuestion .shows) s = .next { s with part := t } ∧ t.hold = p.hold ∧
        (t.task (.lane n)).acts = (p.task (.lane n)).acts ++ [.refusal n a .busy] ∧
        t.task .shows = ⟨[.handBack 1], true⟩) ∧
    ((∀ h ∈ p.hold.holds, h.showNo ≠ sh) → (p.showAt sh).state ≠ .vacant →
      ∃ t, exec (.holdQuestion .shows) s = .next { s with part := t } ∧ t.hold.holds = p.hold.holds ∧
        sh ∉ t.hold.darkDue ∧ t.shows = p.shows ∧ t.busy .hold = true ∧
        t.task .shows = ⟨[.retireVouchers sh, .retireDone sh, .finish n], true⟩))

/-! ### Order slots -/

/-- ORDER_RECORD_WRITE (R70): binding, restart and capture, and the refusals in their order. SPOOL_WRITE (R72): taken
from the owner of an ASSEMBLING slot, else refused. A taken write reaches memory as written, and no other slot
changes. With room the status words that a taken record write changes are placed (R68); the 16 status words of a slot,
words 16 to 31 of its record, have the format of 10.3. -/
def Obligations.AssemblyWrites : Prop :=
  (([.empty, .assembling, .refused, .queued, .tendering, .approved, .printing, .printHalted, .done, .declined,
      .cancelled, .abandoned, .timedOut, .void] : List SlotState).map SlotState.code = List.range 14 ∧
    ∀ x : Shadow, (List.range 16).map (statusWord x) =
      let late : Nat := match x.late with | none => 0 | some .approved => 1 | some .declined => 2
      let index (k : Nat) : Nat := match x.vouchers[k]? with | none => 0 | some i => i.val
      let auth : List Word := match x.auth with
        | none => [0, 0, 0]
        | some code => [bytesWord code[0] code[1], bytesWord code[2] code[3], bytesWord code[4] code[5]]
      [wordOf (x.state.code + (match x.owner with | none => 7 | some n => n.val) * 16 + x.cursor * 256
          + x.reserved * 4096 + late * 16384),
        wordOf (reasonCode x.reason + x.reprints * 256 + x.vouchers.length * 1024
          + if x.firstSerial.isSome then 32768 else 0),
        (match x.amount with | none => 0xFFFF | some m => wordOf (m / 65536)),
        (match x.amount with | none => 0xFFFF | some m => wordOf (m % 65536)),
        bytesWord (BitVec.ofNat 8 (index 0)) (BitVec.ofNat 8 (index 1)),
        bytesWord (BitVec.ofNat 8 (index 2)) (BitVec.ofNat 8 (index 3)),
        (match x.seq with | none => 0 | some q => wordOf (q.toNat + 256)),
        (match x.deadline with | none => 0 | some d => wordOf (d.toNat / 65536 + 32768)),
        (match x.deadline with | none => 0 | some d => wordOf (d.toNat % 65536))]
      ++ auth ++
      [wordOf (x.offset + x.strips * 4096),
        (match x.firstSerial with | none => 0 | some f => wordOf (f.toNat / 65536)),
        (match x.firstSerial with | none => 0 | some f => wordOf (f.toNat % 65536)), 0]) ∧
  (∀ (n : Lane) (s : State) (a : Addr) (v : Word) (sl : SlotNo) (k : Nat), let p := s.part
    let x := p.slot sl
    let refused (r : Reason) : Prop := ∃ t, exec (.orderRecordWrite n) s = .next { s with part := t } ∧ p.Refuses t n a r
    let taken (y : Shadow) : Prop := ∃ t, exec (.orderRecordWrite n) s = .next { s with part := t } ∧
      Part.Placed { p.afterWrite n with order := t.order } t ∧ t.slotAfter sl = y ∧
      (∀ m, m ≠ sl → t.slot m = p.slot m) ∧ t.order.prices = p.order.prices ∧
      (p.room 2 → (t.lane n).access = none ∧ t.slot sl = y ∧ (p.noPass a → queueFind t.queue a = some v) ∧
        (p.noPass (p.orderAddr sl 16) → p.StatusPlaced t sl x y))
    let first : Vector (Option Word) 15 := Vector.ofFn fun j => if j.val = 0 then some v else none
    p.offers n a v (.record sl k) .order →
    (x.state = .empty → k = 0 → (p.lane n).role ≠ .kiosk → refused .role) ∧
    (¬(x.state = .empty ∧ k = 0 ∧ (p.lane n).role ≠ .kiosk) → (p.lane n).lapsed = true → refused .lapsed) ∧
    ((p.lane n).lapsed = false → x.state ≠ .empty → x.owner ≠ some n → refused .slotOwner) ∧
    ((p.lane n).lapsed = false → x.state = .empty → k ≠ 0 → refused .slotState) ∧
    ((p.lane n).lapsed = false → x.state = .empty → k = 0 → (p.lane n).role = .kiosk →
      taken { x with state := .assembling, owner := some n, cursor := 1, words := first }) ∧
    ((p.lane n).lapsed = false → x.state = .assembling → x.owner = some n → k = 0 →
      taken { x with cursor := 1, words := first }) ∧
    ((p.lane n).lapsed = false → x.state = .assembling → x.owner = some n → k ≠ 0 → k = x.cursor → k < 15 →
      taken { x with cursor := k + 1, words := Vector.ofFn fun j => if j.val = k then some v else x.words[j] }) ∧
    ((p.lane n).lapsed = false → x.state = .assembling → x.owner = some n → k ≠ 0 → k ≠ x.cursor →
      refused .sequence) ∧
    ((p.lane n).lapsed = false → x.state ≠ .empty → x.state ≠ .assembling → x.owner = some n → refused .slotState)) ∧
  (∀ (n : Lane) (s : State) (a : Addr) (v : Word) (sl : SlotNo), let p := s.part
    let x := p.slot sl
    let refused (r : Reason) : Prop := ∃ t, exec (.spoolWrite n) s = .next { s with part := t } ∧ p.Refuses t n a r
    p.offers n a v (.spool sl) .order →
    ((p.lane n).lapsed = true → refused .lapsed) ∧
    ((p.lane n).lapsed = false → x.state = .empty → refused .slotState) ∧
    ((p.lane n).lapsed = false → x.state ≠ .empty → x.owner ≠ some n → refused .slotOwner) ∧
    ((p.lane n).lapsed = false → x.state ≠ .empty → x.state ≠ .assembling → x.owner = some n → refused .slotState) ∧
    ((p.lane n).lapsed = false → x.state = .assembling → x.owner = some n →
      ∃ t, exec (.spoolWrite n) s = .next { s with part := t } ∧ Part.Placed (p.afterWrite n) t ∧
        (p.room 1 → (t.lane n).access = none ∧ (p.noPass a → queueFind t.queue a = some v))))

/-- CLOSE by the ACTIVE owner (R73, R78 to R82, R86). A slot that is not ASSEMBLING refuses it SLOT_STATE, an
incomplete record SEQUENCE. A show that is not OPEN puts the slot to REFUSED with SHOW_SHUT, a record of bad form with
ORDER_FORM. In parts, a close that passes both goes on to its question to the hold unit. Taken at once, with the other
blocks free, every seat held, the vouchers free and room for two log entries: with an amount above 0 the holds are
PENDING for the slot, the first free vouchers are reserved, two entries are reserved in the log, and the slot goes to
QUEUED, with room, and without vouchers asked or carried (an ASSEMBLING slot carries none), at the tail of the payment
queue (R82, R83); with an amount of 0 the slot goes to APPROVED with six spaces as auth code and no reservation left,
its holds being removed by the sale. -/
def Obligations.Close : Prop :=
  ∀ (n : Lane) (s : State) (a : Addr) (sl : SlotNo) (pace : Pace), let p := s.part
    let x := p.slot sl
    let refused (r : Reason) : Prop := ∃ t, exec (.close n pace) s = .next { s with part := t } ∧ p.Refuses t n a r
    let ends (r : Reason) : Prop := ∃ t, exec (.close n pace) s = .next { s with part := t } ∧
      t.slotAfter sl = { x with state := .refused, reason := some r } ∧ t.hold = p.hold ∧ t.log = p.log ∧
      t.directory = p.directory ∧ ∀ m, m ≠ sl → t.slot m = p.slot m
    let w (k : Nat) : Nat := (x.word k).toNat
    let k := w 1 % 16
    let v := w 1 / 256 % 16
    let opened : Prop := w 0 < 16 ∧ (p.showAt (Fin.ofNat 16 (w 0))).state = .opened
    let form : Prop :=
      w 1 / 16 % 16 = 0 ∧ w 1 / 4096 = 0 ∧ 1 ≤ k ∧ k ≤ 8 ∧ v ≤ 4 ∧
      (∀ i : Fin 8, if i.val < k then w (2 + i.val) < (p.showAt (Fin.ofNat 16 (w 0))).word 1
        else w (2 + i.val) = 0xFFFF) ∧
      (∀ i j : Fin 8, i < j → j.val < k → w (2 + i.val) ≠ w (2 + j.val)) ∧
      ∀ i : Fin 4, if i.val < v then w (10 + i.val) < 16 else w (10 + i.val) = 0xFFFF
    p.offers n a 0x0100 (.control sl) .order → (p.lane n).lapsed = false → x.owner = some n →
    (x.state ≠ .empty → x.state ≠ .assembling → refused .slotState) ∧
    (x.state = .assembling → x.cursor ≠ 15 → refused .sequence) ∧
    (x.state = .assembling → x.cursor = 15 → ¬opened → ends .showShut) ∧
    (x.state = .assembling → x.cursor = 15 → opened → ¬form → ends .orderForm) ∧
    (x.state = .assembling → x.cursor = 15 → opened → form → pace = .parts →
      ∃ t, exec (.close n pace) s = .next { s with part := t } ∧
        t = { p.afterWrite n with lanes := t.lanes, work := t.work } ∧
        t.task .order = ⟨[.closeHolds sl, .place a 0x0100, .finish n], true⟩) ∧
    (∀ hs, x.state = .assembling → x.cursor = 15 → opened → form → pace = .whole →
      p.idle → heldSeats p n x.showNo x.seats = some hs → v ≤ p.directory.free.length → p.directory.free.Nodup →
      p.log.used + p.log.reserved + 2 ≤ p.log.capacity →
      let amount := (hs.map fun h => p.classPrice h.cls).sum
        + (x.items.map fun i => (p.order.prices[Fin.ofNat 24 (8 + i % 16)]).toNat).sum
      let pended : List Hold := p.hold.holds.map fun h =>
        if h ∈ hs then { h with slot := some sl, warned := false } else h
      (0 < amount →
        ∃ t, exec (.close n pace) s = .next { s with part := t } ∧
          t.slotAfter sl = { x with
            state := .queued, vouchers := p.directory.free.take v, amount := some amount, reserved := 2 } ∧
          t.hold.holds = pended ∧
          t.log = { p.log with reserved := p.log.reserved + 2 } ∧
          t.directory.free = p.directory.free.drop v ∧
          (sl ∉ p.order.payQueue → v = 0 → x.vouchers = [] → p.room (k + 7) → t.order.payQueue = p.order.payQueue ++ [sl]) ∧
          (∀ m, m ≠ sl → t.slot m = p.slot m) ∧ t.shows = p.shows ∧ t.tender = p.tender ∧ t.print = p.print) ∧
      (amount = 0 →
        ∃ t, exec (.close n pace) s = .next { s with part := t } ∧
          t.slotAfter sl = { x with
            state := .approved, vouchers := p.directory.free.take v, amount := some 0, reserved := 0
            auth := some #v[0x20, 0x20, 0x20, 0x20, 0x20, 0x20] } ∧
          (t.hold.holds = pended ∧ .sale sl ∈ (t.task .order).acts ∨
            t.hold.holds = pended.filter fun h => h.slot != some sl) ∧
          (v = 0 → p.queue = [] → t.hold.holds = pended.filter fun h => h.slot != some sl) ∧
          t.directory.free = p.directory.free.drop v ∧
          (sl ∉ p.order.payQueue → sl ∉ t.order.payQueue) ∧
          (∀ m, m ≠ sl → t.slot m = p.slot m) ∧ t.shows = p.shows ∧ t.tender = p.tender))

/-- CANCEL of a QUEUED slot by its ACTIVE owner (R74, R88), RELEASE of a slot in an end state by its ACTIVE owner or
an ACTIVE lane 0 (R75), and FORCE_DONE of a PRINT_HALTED slot by an ACTIVE lane 0 (R77), at either pace: what the
order unit's decision leads to; in another state they are refused SLOT_STATE. The slot of a taken CANCEL is out of the
payment queue at once, the others keeping their order. Every other slot stays as it was. Before that, the gates of
every control command (R73): FORCE_DONE of lanes 1 to 5 is refused ROLE, a LAPSED lane's command LAPSED, a value that
is no command BAD_REQUEST, which the row of CLOSE does by the model's choice (log 6), a command on an EMPTY slot
SLOT_STATE, and one of a lane that is not the owner SLOT_OWNER, but for lane 0's FORCE_DONE and its RELEASE of an end
state. -/
def Obligations.ControlCommands : Prop :=
  (∀ (n : Lane) (s : State) (a : Addr) (v : Word) (sl : SlotNo) (pace : Pace), let p := s.part
    let x := p.slot sl
    let k := Control.ofWord v
    let c : Instr := match k with
      | .close | .undefined => .close n pace
      | .cancel => .cancel n pace
      | .release => .release n pace
      | .reprint _ => .reprint n pace
      | .forceDone => .forceDone n pace
    let refused (r : Reason) : Prop := ∃ t, exec c s = .next { s with part := t } ∧ p.Refuses t n a r
    p.offers n a v (.control sl) .order →
    (k = .forceDone → n ≠ 0 → refused .role) ∧
    (k ≠ .forceDone ∨ n = 0 → (p.lane n).lapsed = true → refused .lapsed) ∧
    (k ≠ .forceDone ∨ n = 0 → (p.lane n).lapsed = false →
      (k = .undefined → refused .badRequest) ∧
      (k ≠ .undefined → x.state = .empty → refused .slotState) ∧
      (k ≠ .undefined → x.state ≠ .empty → x.owner ≠ some n →
        ¬(n = 0 ∧ (k = .forceDone ∨ k = .release ∧ x.state.isEnd = true)) → refused .slotOwner))) ∧
  ∀ (n : Lane) (s : State) (a : Addr) (v : Word) (sl : SlotNo) (pace : Pace), let p := s.part
    let x := p.slot sl
    let leadsTo (c : Instr) (y : Shadow) : Prop := ∃ t, exec c s = .next { s with part := t } ∧
      t.slotAfter sl = y ∧ (∀ m, m ≠ sl → t.slotAfter m = p.slot m) ∧
      t.shows = p.shows ∧ t.tender = p.tender ∧ t.print = p.print ∧ t.clock = (p.afterWrite n).clock ∧
      t.setup = p.setup ∧ t.order.prices = p.order.prices
    let refused (c : Instr) : Prop := ∃ t, exec c s = .next { s with part := t } ∧ p.Refuses t n a .slotState
    p.offers n a v (.control sl) .order → (p.lane n).lapsed = false →
    (v = 0x0200 → x.owner = some n →
      (x.state = .queued →
        leadsTo (.cancel n pace) { x with state := .cancelled, reserved := 0, vouchers := [] } ∧
        (p.order.payQueue.Nodup → ∃ t, exec (.cancel n pace) s = .next { s with part := t } ∧
          t.order.payQueue = p.order.payQueue.erase sl)) ∧
      (x.state ≠ .queued → refused (.cancel n pace))) ∧
    (v = 0x0300 →
      (x.state.isEnd = true → x.owner = some n ∨ n = 0 → leadsTo (.release n pace) Shadow.initial) ∧
      (x.state.isEnd = false → x.owner = some n → refused (.release n pace))) ∧
    (v = 0x0500 → n = 0 →
      (x.state = .printHalted → leadsTo (.forceDone n pace) { x with state := .done } ∧
        (p.clearFor 1 → ∃ t, exec (.forceDone n pace) s = .next { s with part := t } ∧
          p.StatusPlaced t sl x { x with state := .done })) ∧
      (x.state ≠ .printHalted → refused (.forceDone n pace)))

/-- REPRINT by the ACTIVE owner of a DONE or PRINT_HALTED slot (R76): with two reprints made it is refused PRINT_LIMIT.
Taken at once with the log writer free, a log with no free entry refuses it LOG_FULL and the slot is unchanged;
otherwise the slot goes to APPROVED with one reprint more and its progress and first serial cleared. -/
def Obligations.Reprint : Prop :=
  ∀ (n : Lane) (s : State) (a : Addr) (v : Word) (c : Choice) (sl : SlotNo), let p := s.part
    let x := p.slot sl
    p.offers n a v (.control sl) .order → Control.ofWord v = .reprint c → (p.lane n).lapsed = false →
    x.owner = some n → x.state = .done ∨ x.state = .printHalted →
    (2 ≤ x.reprints → ∀ pace, ∃ t, exec (.reprint n pace) s = .next { s with part := t } ∧ p.Refuses t n a .printLimit) ∧
    (x.reprints < 2 → p.busy .log = false → p.log.room = 0 →
      ∃ t, exec (.reprint n .whole) s = .next { s with part := t } ∧ t.order = p.order ∧ t.log = p.log ∧
        (t.task (.lane n)).acts = (p.task (.lane n)).acts ++ [.refusal n a .logFull]) ∧
    (x.reprints < 2 → p.busy .log = false → p.busy .print = false → 1 ≤ p.log.room →
      ∃ t, exec (.reprint n .whole) s = .next { s with part := t } ∧
        t.slotAfter sl = { x with
          state := .approved, reprints := x.reprints + 1, offset := 0, strips := 0, firstSerial := none } ∧
        (∀ m, m ≠ sl → t.slot m = p.slot m) ∧ t.hold = p.hold ∧ t.directory = p.directory) ∧
    (x.reprints < 2 →
      ∃ t, exec (.reprint n .parts) s = .next { s with part := t } ∧
        t = { p.afterWrite n with lanes := t.lanes, work := t.work } ∧
        t.task .order = ⟨[.reprintLog n sl c a v], true⟩)

/-- SLOT_TEARDOWN of a lapsed lane (R48), at either pace: what the order unit's decision leads to. Each ASSEMBLING slot
of the lane becomes VOID, each QUEUED one CANCELLED with its vouchers returned, and every other slot stays. The QUEUED
ones are out of the payment queue at once, and the other slots keep their places in it. -/
def Obligations.SlotTeardown : Prop :=
  ∀ (n : Lane) (pace : Pace) (s : State), let p := s.part
    p.freeFor .order → p.accepted = true → (p.lane n).teardownDue = true →
    ∃ t, exec (.slotTeardown n pace) s = .next { s with part := t } ∧
      (∀ sl, let x := p.slot sl
        t.slotAfter sl =
          if x.owner = some n ∧ x.state = .assembling then { x with state := .void, reserved := 0, vouchers := [] }
          else if x.owner = some n ∧ x.state = .queued then
            { x with state := .cancelled, reserved := 0, vouchers := [] }
          else x) ∧
      (p.listsOk → t.order.payQueue = p.order.payQueue.filter fun sl => (p.slot sl).owner != some n) ∧
      t.shows = p.shows ∧ t.tender = p.tender ∧ t.print = p.print ∧ t.clock = p.clock ∧
      t.order.prices = p.order.prices

/-! ### Vouchers and the log -/

/-- REDEEM in RUNNING (R143, R144). The refusals in their order: ROLE, LAPSED, ALREADY_REDEEMED or VOUCHER_STATE,
BAD_TAG, EXPIRED; with the log writer free and no log entry free, LOG_FULL. Taken at once, the entry becomes REDEEMED
with the lane and the minute of day; no other entry, slot or hold entry changes. With an empty update queue words 0
and 3 of its cell are placed with REDEEMED and the redemption record (R136), and the count words that change (R137).
In SWEEPING it is refused SWEEPING (R59). -/
def Obligations.Redeem : Prop :=
  (∀ (n : Lane) (s : State) (a : Addr) (v : Word) (i : VoucherNo), let p := s.part
    let x := p.voucher i
    let refused (r : Reason) : Prop :=
      ∀ pace, ∃ t, exec (.redeem n pace) s = .next { s with part := t } ∧ p.Refuses t n a r
    let able : Prop := (p.lane n).role = .counter ∧ (p.lane n).lapsed = false
    p.offers n a v (.redeem i) .directory →
    ((p.lane n).role ≠ .counter → refused .role) ∧
    ((p.lane n).role = .counter → (p.lane n).lapsed = true → refused .lapsed) ∧
    (able → x.state = .redeemed → refused .alreadyRedeemed) ∧
    (able → x.state = .free ∨ x.state = .reserved → refused .voucherState) ∧
    (able → x.state = .issued → v ≠ x.tag → refused .badTag) ∧
    (able → x.state = .issued → v = x.tag → x.expiry < p.clock.minuteNo → refused .expired) ∧
    (able → x.state = .issued → v = x.tag → p.clock.minuteNo ≤ x.expiry → p.busy .log = false →
      (p.log.room = 0 → ∃ t, exec (.redeem n .whole) s = .next { s with part := t } ∧ t.directory = p.directory ∧
        t.log = p.log ∧ (t.task (.lane n)).acts = (p.task (.lane n)).acts ++ [.refusal n a .logFull]) ∧
      (1 ≤ p.log.room → ∃ t, exec (.redeem n .whole) s = .next { s with part := t } ∧
        t.directory = { p.directory with
          entries := p.directory.entries.set i { x with state := .redeemed, redemption := some (n, p.clock.minute) } } ∧
        (p.clearFor 16 → (t.lane n).access = none ∧ p.CountsPlaced t ∧
          queueFind t.queue (p.voucherAddr i 0) = some (wordOf (3 + 16 * x.item + 256 * x.showNo.val)) ∧
          queueFind t.queue (p.voucherAddr i 3) = some (wordOf (p.clock.minute + 4096 * n.val + 32768))) ∧
        t.order = p.order ∧ t.hold = p.hold ∧ t.shows = p.shows ∧ t.clock = (p.afterWrite n).clock))) ∧
  (∀ (n : Lane) (s : State) (a : Addr) (v : Word) (pace : Pace), let p := s.part
    p.calm → p.laneWrite n = some (a, v) → p.treatment n a = .refuseSweeping → p.region a ≠ .seat →
    ∃ t, exec (.redeem n pace) s = .next { s with part := t } ∧ p.Refuses t n a .sweeping)

/-- The requests to the voucher directory, while it is free; the asker goes on once the directory's decision is
complete (R139). VOUCHER_RESERVE takes the first indices of the free list for the items in order, and the close ends:
the slot is led to QUEUED with its amount and two log reservations (R80 to R82, R140). VOUCHER_ISSUE gives each
reserved voucher of the slot a tag of the generator, never 0 (R141). VOUCHER_RETURN makes them FREE, at the tail of
the free list (R142). VOUCHER_RETIRE does so for the show's ISSUED and REDEEMED vouchers in ascending order (R147). No
other entry changes, and a free list that holds exactly the FREE entries goes on doing so. With room the words of each
cell are placed with the values of R136, at a reservation, issue, return or retirement, and, but for a retirement,
whose decision goes on, the count words that change (R137); the slot of the close, which carried no vouchers before,
is then at the tail of the payment queue (R82, R83) with its status words rewritten (R68). -/
def Obligations.VoucherRequests : Prop :=
  let left (t : Part) (rest : List Act) : List Act := if t.busy .directory then .await .directory :: rest else rest
  (∀ t : Word, nextTag t ≠ 0 ∧ (t + 0x9E37 ≠ 0 → nextTag t = t + 0x9E37)) ∧
  (∀ (sl : SlotNo) (classes : List Nat) (n : Lane) (a : Addr) (v : Word) (s : State), let p := s.part
    let x := p.slot sl
    let k := x.voucherCount
    let amount := (classes.map p.classPrice).sum
      + (x.items.map fun i => (p.order.prices[Fin.ofNat 24 (8 + i % 16)]).toNat).sum
    p.freeFor .directory → p.accepted = true → 0 < k → k ≤ p.directory.free.length → p.directory.free.Nodup →
    p.task .order = ⟨[.closeReserve sl classes, .place a v, .finish n], true⟩ → 0 < amount →
    ∃ t, exec .voucherReserve s = .next { s with part := t } ∧
      t.directory.free = p.directory.free.drop k ∧ t.directory.tagGen = p.directory.tagGen ∧
      (∀ j i, p.directory.free[j]? = some i → t.voucher i = if j < k then
        ⟨.reserved, x.items.getD j 0, x.showNo, sl.val, 0, (p.showAt x.showNo).expiry, none⟩ else p.voucher i) ∧
      (∀ i, i ∉ p.directory.free → t.voucher i = p.voucher i) ∧
      t.slotAfter sl = { x with
        state := .queued, vouchers := p.directory.free.take k, amount := some amount, reserved := 2 } ∧
      (p.freeExact → t.freeExact) ∧
      (p.clearFor (4 * k + 8) → a = p.orderAddr sl 15 → x.vouchers = [] →
        (∀ i ∈ p.directory.free, (p.voucher i).state = .free) →
        (sl ∉ p.order.payQueue → t.order.payQueue = p.order.payQueue ++ [sl]) ∧
        p.StatusPlaced t sl x (t.slotAfter sl) ∧ p.CountsPlaced t ∧
        ∀ j i, j < k → p.directory.free[j]? = some i →
          queueFind t.queue (p.voucherAddr i 0) = some (wordOf (1 + 16 * x.items.getD j 0 + 256 * x.showNo.val)) ∧
          queueFind t.queue (p.voucherAddr i 1) = some 0 ∧
          queueFind t.queue (p.voucherAddr i 2) = some (wordOf ((p.showAt x.showNo).expiry % 1440 + 2048 * sl.val)) ∧
          queueFind t.queue (p.voucherAddr i 3) = some 0)) ∧
  (∀ (sl : SlotNo) (rest : List Act) (parts : Bool) (s : State), let p := s.part
    let is := (p.slot sl).vouchers
    p.freeFor .directory → p.accepted = true → is.Nodup → p.task .order = ⟨.issue sl :: rest, parts⟩ →
    stops parts rest →
    ∃ t, exec .voucherIssue s = .next { s with part := t } ∧ (t.task .order).acts = left t rest ∧
      (p.room (2 * is.length + 4) → (t.task .order).acts = rest) ∧
      (p.clearFor (2 * is.length + 4) → p.CountsPlaced t ∧ ∀ j i, is[j]? = some i →
        queueFind t.queue (p.voucherAddr i 0)
          = some (wordOf (2 + 16 * (p.voucher i).item + 256 * (p.voucher i).showNo.val)) ∧
        queueFind t.queue (p.voucherAddr i 1) = some (nextTag^[j] p.directory.tagGen)) ∧
      Part.Placed { p with directory := t.directory } t ∧ t.directory.free = p.directory.free ∧
      t.directory.tagGen = nextTag^[is.length] p.directory.tagGen ∧
      (∀ j i, is[j]? = some i →
        t.voucher i = { p.voucher i with state := .issued, tag := nextTag^[j] p.directory.tagGen }) ∧
      (∀ i, i ∉ is → t.voucher i = p.voucher i) ∧
      ((∀ i ∈ is, (p.voucher i).state ≠ .free) → p.freeExact → t.freeExact)) ∧
  (∀ (sl : SlotNo) (rest : List Act) (parts : Bool) (s : State), let p := s.part
    let is := (p.slot sl).vouchers
    p.freeFor .directory → p.accepted = true → p.task .order = ⟨.returnVouchers sl :: rest, parts⟩ →
    stops parts rest →
    ∃ t, exec .voucherReturn s = .next { s with part := t } ∧ (t.task .order).acts = left t rest ∧
      (p.room (4 * is.length + 4) → (t.task .order).acts = rest) ∧
      (p.clearFor (4 * is.length + 4) → p.CountsPlaced t ∧ ∀ i ∈ is, ∀ k : Fin 4,
        queueFind t.queue (p.voucherAddr i k) = some (if k = 2 then 0xFFFF else 0)) ∧
      Part.Placed { p with directory := t.directory } t ∧ t.directory.free = p.directory.free ++ is ∧
      t.directory.tagGen = p.directory.tagGen ∧
      (∀ i, t.voucher i = if i ∈ is then Voucher.initial else p.voucher i) ∧
      (is.Nodup → (∀ i ∈ is, (p.voucher i).state ≠ .free) → p.freeExact → t.freeExact)) ∧
  (∀ (sh : ShowNo) (rest : List Act) (s : State), let p := s.part
    let gone := (List.finRange 256).filter fun i =>
      ((p.voucher i).state == .issued || (p.voucher i).state == .redeemed) && (p.voucher i).showNo == sh
    p.freeFor .directory → p.accepted = true → p.task .shows = ⟨.retireVouchers sh :: rest, true⟩ →
    stops true rest →
    ∃ t, exec .voucherRetire s = .next { s with part := t } ∧ (t.task .shows).acts = .await .directory :: rest ∧
      t.directory.free = p.directory.free ++ gone ∧ t.directory.tagGen = p.directory.tagGen ∧
      (∀ i, t.voucher i = if i ∈ gone then Voucher.initial else p.voucher i) ∧
      (p.clearFor gone.length → ∀ i ∈ gone, queueFind t.queue (p.voucherAddr i 0)
        = some (wordOf (4 + 16 * (p.voucher i).item + 256 * sh.val))) ∧
      (p.freeExact → t.freeExact) ∧
      t.log = p.log ∧ t.order = p.order ∧ t.hold = p.hold)

/-- The requests to the log writer, while it is free (R162, R163). LOG_RESERVE for a close reserves two entries if the
free room has them, else reserves none and the slot is REFUSED with LOG_FULL. LOG_HAND_BACK lowers the reserved count.
LOG_WRITE_RESERVED, with an empty update queue, places the entry's eight words at the write index, which advances
around the capacity; used rises and reserved falls by 1. LOG_RESERVE for a RETIRE reserves one entry, or the write is
refused BUSY. LOG_WRITE_FREE for a redemption, a REPRINT or a supervisor edit is granted when an entry is free: the
voucher is REDEEMED with the minute at which the directory took the write, the model's choice (log 35), the slot is led to
APPROVED, the edit's entry is written; else the write is refused LOG_FULL. The
flag LOG_FULL of lane 0 is asked for when a request finds no room and when used plus reserved come to the capacity,
LOG_HALF when used passes half the capacity (R165): set at once with the attention unit free, or left to SET_REQUEST. -/
def Obligations.LogRequests : Prop :=
  let raised (p t : Part) (parts : Bool) (f : Flag) : Prop :=
    if parts then .flag 0 f ∈ (t.task .log).acts
    else p.busy .attention = false → f.isIn (t.att 0).flags = true
  let half (l : LogWriter) : Prop := 2 * l.used ≤ l.capacity ∧ l.capacity < 2 * (l.used + 1)
  (∀ (sl : SlotNo) (n : Lane) (a : Addr) (v : Word) (s : State), let p := s.part
    p.freeFor .log → p.accepted = true → p.task .order = ⟨[.closeLog sl, .place a v, .finish n], true⟩ →
    (2 ≤ p.log.room → ∃ t, exec (.logReserve .order) s = .next { s with part := t } ∧
      t.log = { p.log with reserved := p.log.reserved + 2 } ∧ t.order = p.order ∧ t.hold = p.hold ∧
      t.task .order = ⟨[.pend sl, .place a v, .finish n], true⟩ ∧
      (p.log.room = 2 → raised p t true .logFull)) ∧
    (p.log.room < 2 → ∃ t, exec (.logReserve .order) s = .next { s with part := t } ∧ t.log = p.log ∧
      t.hold = p.hold ∧ t.slotAfter sl = { p.slot sl with state := .refused, reason := some .logFull } ∧
      raised p t true .logFull)) ∧
  (∀ (b : Block) (k : Nat) (rest : List Act) (parts : Bool) (s : State), let p := s.part
    b ≠ .log → p.freeFor .log → p.accepted = true → p.task b = ⟨.handBack k :: rest, parts⟩ → stops parts rest →
    ∃ t, exec (.logHandBack b) s = .next { s with part := t } ∧ (t.task b).acts = rest ∧
      Part.Placed { p with log := { p.log with reserved := p.log.reserved - k } } t) ∧
  (∀ (b : Block) (d : Draft) (rest : List Act) (parts : Bool) (s : State), let p := s.part
    let l := p.log
    let base := p.base (·.logBase) + 8 * l.write
    b ≠ .log → b ≠ .attention → p.freeFor .log → p.accepted = true →
    p.task b = ⟨.writeReserved d :: rest, parts⟩ → stops parts rest → p.queue = [] →
    (∀ n, p.passedWrite n = none) → 0x160 ≤ base → base + 8 ≤ 0x40000 →
    ∃ t, exec (.logWriteReserved b) s = .next { s with part := t } ∧ (t.task b).acts = rest ∧
      t.log = { l with write := (l.write + 1) % l.capacity, used := l.used + 1, reserved := l.reserved - 1 } ∧
      (∀ k : Fin 8, queueFind t.queue (addrOf (base + k.val)) = (d.words p.clock.minuteNo)[k.val]?) ∧
      (half l → raised p t parts .logHalf) ∧
      t.order = p.order ∧ t.hold = p.hold ∧ t.directory = p.directory) ∧
  (∀ (n : Lane) (i : VoucherNo) (m : Nat) (a : Addr) (v : Word) (parts : Bool) (s : State), let p := s.part
    p.freeFor .log → p.accepted = true → (p.lane n).access = some ⟨a, some v, true, false⟩ →
    p.task .directory = ⟨[.redeemLog n i m], parts⟩ →
    (p.log.room = 0 → ∃ t, exec (.logWriteFree .directory) s = .next { s with part := t } ∧ t.log = p.log ∧
      t.directory = p.directory ∧ (t.task (.lane n)).acts = (p.task (.lane n)).acts ++ [.refusal n a .logFull] ∧
      raised p t parts .logFull) ∧
    (1 ≤ p.log.room → ∃ t, exec (.logWriteFree .directory) s = .next { s with part := t } ∧
      t.directory = { p.directory with
        entries := p.directory.entries.set i { p.voucher i with state := .redeemed, redemption := some (n, m) } } ∧
      (p.queue = [] →
        t.log = { p.log with write := (p.log.write + 1) % p.log.capacity, used := p.log.used + 1 } ∧
        (half p.log → raised p t parts .logHalf) ∧ (p.log.room = 1 → raised p t parts .logFull)) ∧
      t.order = p.order ∧ t.hold = p.hold)) ∧
  (∀ (n : Lane) (sh : ShowNo) (a : Addr) (v : Word) (s : State), let p := s.part
    p.freeFor .log → p.accepted = true → (p.lane n).access = some ⟨a, some v, true, false⟩ →
    p.task .shows = ⟨[.retireLog n sh], true⟩ →
    (1 ≤ p.log.room → ∃ t, exec (.logReserve .shows) s = .next { s with part := t } ∧
      t.log = { p.log with reserved := p.log.reserved + 1 } ∧ t.shows = p.shows ∧ t.order = p.order ∧
      (p.log.room = 1 → raised p t true .logFull)) ∧
    (p.log.room = 0 → ∃ t, exec (.logReserve .shows) s = .next { s with part := t } ∧ t.log = p.log ∧
      t.shows = p.shows ∧ (t.task (.lane n)).acts = (p.task (.lane n)).acts ++ [.refusal n a .busy] ∧
      raised p t true .logFull)) ∧
  (∀ (n : Lane) (sl : SlotNo) (c : Choice) (a : Addr) (v : Word) (s : State), let p := s.part
    let x := p.slot sl
    p.freeFor .log → p.accepted = true → (p.lane n).access = some ⟨a, some v, true, false⟩ →
    p.task .order = ⟨[.reprintLog n sl c a v], true⟩ →
    (p.log.room = 0 → ∃ t, exec (.logWriteFree .order) s = .next { s with part := t } ∧ t.log = p.log ∧
      t.order = p.order ∧ (t.task (.lane n)).acts = (p.task (.lane n)).acts ++ [.refusal n a .logFull] ∧
      raised p t true .logFull) ∧
    (1 ≤ p.log.room → ∃ t, exec (.logWriteFree .order) s = .next { s with part := t } ∧ t.hold = p.hold ∧
      t.slotAfter sl = { x with
        state := .approved, reprints := x.reprints + 1, offset := 0, strips := 0, firstSerial := none } ∧
      (p.queue = [] → t.log = { p.log with write := (p.log.write + 1) % p.log.capacity, used := p.log.used + 1 }) ∧
      ∀ m, m ≠ sl → t.slot m = p.slot m)) ∧
  (∀ (n : Lane) (a : Addr) (v cell : Word) (d : Draft) (s : State), let p := s.part
    let l := p.log
    p.freeFor .log → p.accepted = true → (p.lane n).access = some ⟨a, some v, true, false⟩ →
    p.task .hold = ⟨[.editLog n a cell d], true⟩ →
    (l.room = 0 → ∃ t, exec (.logWriteFree .hold) s = .next { s with part := t } ∧ t.log = l ∧ t.hold = p.hold ∧
      (t.task (.lane n)).acts = (p.task (.lane n)).acts ++ [.refusal n a .logFull] ∧ raised p t true .logFull) ∧
    (1 ≤ l.room → p.queue = [] → ∃ t, exec (.logWriteFree .hold) s = .next { s with part := t } ∧
      t.log = { l with write := (l.write + 1) % l.capacity, used := l.used + 1 } ∧ t.hold = p.hold ∧
      (t.lane n).access = none ∧ t.order = p.order ∧ t.directory = p.directory))

/-! ### The tender link -/

/-- TRANSACTION_START (R91, R92, R109): TSEL falls, the status byte is loaded, with REQUEST_WAITING, ACCEPTED,
LAST_REJECTED and the TENDERING count at their bits, and the quiet count and mark are cleared. TRANSACTION_END: TSEL
rises, the link is idle, and the requests in the list stay. An examination of the quiet timer that a second event has
asked for is carried out first, with TSEL as it stood and the waiting condition as it stands, the model's choice of when
(log 12); but for what it does, nothing else changes. That a transaction begun while RESET is low is served with FFh is the model's choice (log 18). -/
def Obligations.TransactionStartAndEnd : Prop :=
  (∀ s : State, let p := s.part
    p.calm → p.tender.shift = none → (p.tender.examine = true → p.busy .tender = false) →
    ∃ t x, exec .transactionStart s = .next { s with part := t } ∧
      (let q : Part := { p with tender := { p.tender with
        quiet := 0, quietRaised := false, examine := false, sent := [], shift := some x } }
       Part.Flagged q t ∧ (p.tender.examine = false → t = q)) ∧
      x.byteTime = 0 ∧ x.bitPos = 0 ∧ x.command = none ∧ x.delivery = .none ∧ x.dead = p.resetLow ∧
      (p.resetLow = false → x.sending = some x.status) ∧
      x.status.getLsbD 6 = (p.mode == .running) ∧ x.status.getLsbD 5 = p.tender.lastRejected ∧
      x.status.getLsbD 7 = (p.mode == .running && !p.order.payQueue.isEmpty && decide (p.order.window.length < 4)
        && p.tender.requests.all (fun r => !r.kind.isFetch) && decide (p.tender.requests.length < 4)) ∧
      x.status.toNat % 8 = if p.mode = .running then p.order.window.length % 8 else 0) ∧
  (∀ s : State, s.part.calm → s.part.tender.shift ≠ none → exec .transactionStart s = .next s) ∧
  (∀ s : State, let l := s.part.tender
    let requests := l.requests.map fun r => { r with live := false }
    let waits := s.part.mode == .running && !s.part.order.payQueue.isEmpty && decide (s.part.order.window.length < 4)
    s.part.calm →
    (l.shift = none ∨ l.examine = false →
      exec .transactionEnd s = .next { s with part := { s.part with tender := { l with
        shift := none, requests := requests } } }) ∧
    (l.shift ≠ none → l.examine = true →
      exec .transactionEnd s = .next { s with part := { s.part with tender := { l with
        shift := none, requests := requests, examine := false, quiet := 0
        quietRaised := l.quietRaised && waits } } }))

/-- The bytes of a transaction whose status byte `b` waits to be clocked out (R91, R93). POLL, and any undefined
command, which the row of POLL clocks by the model's choice (log 6), is answered FFh and changes nothing but the
transaction; so does a FETCH, REPORT or ABANDON cut short before its check byte (R93, R101). FETCH sends the request
frame of the head of the payment queue when the link shows REQUEST_WAITING, and its check byte makes it a fetch take
with the deadline the tender timeout ahead (R97, R99); otherwise it sends the empty frame and makes none. A complete
REPORT or ABANDON frame joins the link request list in RUNNING with room, and its verdict is then waited for; outside
RUNNING the verdict is CLOSED, with a bad check BAD_CHECK: LAST_REJECTED is set and it joins nothing; a full list
discards it with no verdict (R101, R106). The byte times after the frame carry NOT_YET (00h) while the verdict is
waited for, then its code once (1 TAKEN, 2 BAD_CHECK, 3 CLOSED, 4 UNKNOWN, 5 STALE, 6 TOO_LATE), then FFh. -/
def Obligations.LinkCommands : Prop :=
  (∀ (s : State) (tr : Transaction) (b : Byte), let p := s.part
    let l := p.tender
    p.calm → l.shift = some tr → tr.dead = false → tr.byteTime = 0 → tr.bitPos = 0 → tr.sending = some b →
    tr.received = [] → l.sent = [] →
    (∀ (c : Byte) (k : Clocking), c ≠ 0x22 → c ≠ 0x33 → c ≠ 0x44 →
      ∃ t, exec (.poll c k) s = .next { s with part := t } ∧
        t = { p with tender := { l with shift := t.tender.shift, sent := t.tender.sent } } ∧
        t.tender.sent = b :: List.replicate k.bytes.length 0xFF) ∧
    (∀ (c : Instr) (k : Clocking),
      c = .fetch k ∧ k.bytes.length < 14 ∨ c = .report k ∧ k.bytes.length < 10 ∨ c = .abandon k ∧ k.bytes.length < 3 →
      ∃ t, exec c s = .next { s with part := t } ∧
        t = { p with tender := { l with shift := t.tender.shift, sent := t.tender.sent } } ∧
        t.tender.sent.length = 1 + k.bytes.length) ∧
    (∀ (k : Clocking) (sl : SlotNo) (q : List SlotNo), k.bytes.length = 14 → p.mode = .running →
      p.order.payQueue = sl :: q → p.order.window.length < 4 → l.requests.length < 4 →
      (∀ r ∈ l.requests, r.kind.isFetch = false) →
      let x := p.slot sl
      let frame : List Byte := [0xA5, BitVec.ofNat 8 sl.val, BitVec.ofNat 8 x.ownerLane.val, l.counter]
        ++ bytes4 (x.amount.getD 0) ++ [BitVec.ofNat 8 (x.word 0).toNat, BitVec.ofNat 8 x.seatCount,
          BitVec.ofNat 8 x.voucherCount] ++ bytes2 (x.word 14)
      ∃ t, exec (.fetch k) s = .next { s with part := t } ∧
        t = { p with tender := { l with
          shift := t.tender.shift, sent := t.tender.sent
          requests := l.requests ++ [⟨sl.val, l.counter, .fetch (p.clock.run + BitVec.ofNat 24 l.timeout), true⟩] } } ∧
        t.tender.sent = b :: frame ++ [crc8 frame]) ∧
    (∀ (k : Clocking), k.bytes.length = 14 →
      p.mode ≠ .running ∨ p.order.payQueue = [] ∨ 4 ≤ p.order.window.length ∨ 4 ≤ l.requests.length ∨
        (∃ r ∈ l.requests, r.kind.isFetch = true) →
      ∃ t, exec (.fetch k) s = .next { s with part := t } ∧
        t = { p with tender := { l with shift := t.tender.shift, sent := t.tender.sent } } ∧
        t.tender.sent = b :: [0xA5, 0xFF, 0, 0, 0, 0, 0, 0, 0, 0, 0, 0, 0]
          ++ [crc8 [0xA5, 0xFF, 0, 0, 0, 0, 0, 0, 0, 0, 0, 0, 0]]) ∧
    (∀ (c : Instr) (k : Clocking) (kind : LinkKind) (bs : List Byte),
      (c = .report k ∧ bs.length = 9 ∧
          kind = .result (bs.getD 2 0) (Vector.ofFn fun j : Fin 6 => bs.getD (3 + j.val) 0) ∨
        c = .abandon k ∧ bs.length = 2 ∧ kind = .abandon) →
      ∀ check : Byte, k.bytes = bs ++ [check] →
      let same (t : Part) (rejected : Bool) (requests : List LinkReq) (d : Delivery) : Prop :=
        t = { p with tender := { l with
          shift := t.tender.shift, sent := t.tender.sent, lastRejected := rejected, requests := requests } } ∧
        (k.bits = 0 → tr.delivery = .none → t.tender.shift.map (·.delivery) = some d)
      ∃ t, exec c s = .next { s with part := t } ∧
        if p.mode ≠ .running then same t true l.requests (.decided .closed)
        else if check ≠ crc8 bs then same t true l.requests (.decided .badCheck)
        else if l.requests.length < 4 then
          same t l.lastRejected (l.requests ++ [⟨(bs.getD 0 0).toNat, bs.getD 1 0, kind, true⟩]) .waiting
        else same t l.lastRejected l.requests .none)) ∧
  (∀ (s : State) (tr : Transaction) (b : Byte), let p := s.part
    let c : Instr := if tr.command = some 0x33 then .report ⟨[b], 0⟩ else .abandon ⟨[b], 0⟩
    p.calm → p.tender.shift = some tr → tr.dead = false → tr.sending = none →
    tr.command = some 0x33 ∧ 11 ≤ tr.byteTime ∨ tr.command = some 0x44 ∧ 4 ≤ tr.byteTime →
    ∃ t, exec c s = .next { s with part := t } ∧
      t = { p with tender := { p.tender with shift := t.tender.shift, sent := t.tender.sent } } ∧
      t.tender.sent = p.tender.sent ++ [(match tr.delivery with
        | .none => 0xFF | .waiting => 0x00
        | .decided .taken => 0x01 | .decided .badCheck => 0x02 | .decided .closed => 0x03
        | .decided .unknown => 0x04 | .decided .stale => 0x05 | .decided .tooLate => 0x06 : Byte)] ∧
      t.tender.shift.map (·.delivery) = some (if tr.delivery = .waiting then .waiting else .none))

/-- LINK_REQUEST_SETTLE of the head of the link request list (R96, R102, R106). Outside RUNNING a result or abandon is
settled CLOSED (R111). In RUNNING a result of an undefined outcome, of a slot above 23, or of a slot neither TENDERING
nor TIMED_OUT is settled UNKNOWN; one with another sequence, or of a TIMED_OUT slot with a late outcome, STALE (for a
TIMED_OUT slot with another sequence by R102's table, the model's choice: log 44); an abandon of a slot that is not
TENDERING UNKNOWN, with another sequence STALE. Settling sets LAST_REJECTED, and the verdict is what the transaction
that brought the request delivers, if it still goes on. Other results and abandons are handed to the order unit, as is
each fetch take. -/
def Obligations.LinkRequestSettle : Prop :=
  ∀ (s : State) (r : LinkReq) (rest : List LinkReq), let p := s.part
    let l := p.tender
    let settled (v : Verdict) : Prop := exec .linkRequestSettle s = .next { s with part := { p with tender := { l with
      requests := rest, handed := false, lastRejected := true
      shift := if r.live then l.shift.map fun x => { x with delivery := .decided v } else l.shift } } }
    let handed : Prop := exec .linkRequestSettle s = .next { s with part := { p with tender := { l with handed := true } } }
    p.calm → l.requests = r :: rest → l.handed = false →
    (r.kind.isFetch = true → handed) ∧
    (r.kind.isFetch = false → p.mode ≠ .running → settled .closed) ∧
    (p.mode = .running → r.kind.isFetch = false → 24 ≤ r.slot → settled .unknown) ∧
    (∀ (h : r.slot < 24) (x : Shadow), p.mode = .running → x = p.slot ⟨r.slot, h⟩ →
      (∀ o auth, r.kind = .result o auth →
        (o ≠ 1 ∧ o ≠ 2 ∧ o ≠ 3 → settled .unknown) ∧
        (o = 1 ∨ o = 2 ∨ o = 3 →
          (x.state ≠ .tendering → x.state ≠ .timedOut → settled .unknown) ∧
          (x.state = .tendering ∨ x.state = .timedOut → x.seq ≠ some r.seq → settled .stale) ∧
          (x.state = .timedOut → x.late ≠ none → settled .stale) ∧
          (x.state = .tendering → x.seq = some r.seq → handed) ∧
          (x.state = .timedOut → x.seq = some r.seq → x.late = none → handed))) ∧
      (r.kind = .abandon →
        (x.state ≠ .tendering → settled .unknown) ∧
        (x.state = .tendering → x.seq ≠ some r.seq → settled .stale) ∧
        (x.state = .tendering → x.seq = some r.seq → handed)))

/-- FETCH_TAKE of the handed head request, the order unit being free (R84, R99). A QUEUED slot at the head of the
payment queue, with fewer than 4 slots TENDERING, is led to TENDERING with the sequence and deadline of the request;
taken at once with room and the attention unit free, the slot stands at the tail of the tender window, its status
words are rewritten (R68), the request leaves the list, the counter advances and TENDER_START is set for the owner.
Otherwise no slot changes, the request leaves the list and the counter stays. -/
def Obligations.FetchTake : Prop :=
  ∀ (s : State) (r : LinkReq) (rest : List LinkReq) (d : RunSecond) (h : r.slot < 24) (pace : Pace), let p := s.part
    let sl : SlotNo := ⟨r.slot, h⟩
    let x := p.slot sl
    p.freeFor .order → p.accepted = true → p.tender.requests = r :: rest → p.tender.handed = true → r.kind = .fetch d →
    (x.state = .queued → p.order.payQueue.head? = some sl → p.order.window.length < 4 →
      ∃ t, exec (.fetchTake pace) s = .next { s with part := t } ∧
        t.slotAfter sl = { x with state := .tendering, seq := some r.seq, deadline := some d } ∧
        (∀ m, m ≠ sl → t.slot m = p.slot m) ∧ t.hold = p.hold ∧ t.log = p.log ∧ t.directory = p.directory ∧
        (pace = .whole → p.busy .attention = false → p.room 4 →
          t.tender.requests = rest ∧ t.tender.counter = p.tender.counter + 1 ∧ t.slot sl = t.slotAfter sl ∧
          t.order.payQueue = p.order.payQueue.erase sl ∧
          (sl ∉ p.order.window → t.order.window = p.order.window ++ [sl]) ∧
          (p.clearFor 4 → p.StatusPlaced t sl x (t.slotAfter sl)) ∧
          Flag.tenderStart.isIn (t.att x.ownerLane).flags = true)) ∧
    (x.state ≠ .queued ∨ p.order.payQueue.head? ≠ some sl ∨ 4 ≤ p.order.window.length →
      ∃ t, exec (.fetchTake pace) s = .next { s with part := t } ∧
        t = { p with work := t.work, tender := { p.tender with requests := rest, handed := false } })

/-- What the order unit makes of a slot at the handed head request or a reached deadline, being free, at either pace: a
taken result gives APPROVED with the auth code, DECLINED or CANCELLED (R85, R86, R88, R103), a taken abandon ABANDONED
(R106), a timeout TIMED_OUT with one reservation kept (R107), and a late result the late outcome alone (R89, R104). A
taken result of a slot that is no longer TENDERING or TIMED_OUT changes nothing and is settled. Every other slot stays
as it was. In parts the rest of the decision is its effects in their order: the sale and the issue, or the return of the
seats and of the vouchers, the outcome entry from the reservation, the hand back of the other but for a timeout, the new
state, and the job hand-off (R86, R88); of a late result the entry, LATE_RESULT and the late outcome (R89). After the hand
back, with room, the slot is APPROVED or in its end state with its status words placed, and its hand-off or ORDER_END is
asked for. With the last request the verdict is given: TAKEN clears LAST_REJECTED, every other sets it (R105), the
transaction that brought the request delivers it, and the request leaves the list (R102, R103). -/
def Obligations.TenderOutcomes : Prop :=
  (∀ (s : State) (sl : SlotNo) (pace : Pace), let p := s.part
    let x := p.slot sl
    let entry (kind : LogKind) (detail : Nat) (text : Vector Word 3) : Act := .writeReserved {
      kind, detail, lane := x.ownerLane.val, slot := sl.val, showNo := x.showNo.val, value := x.amount.getD 0, text }
    let reserved (a : Act) : List Act := if x.vouchers = [] then [] else [a]
    let unsold (kind : LogKind) (st : SlotState) : List Act :=
      [.returnSeats sl] ++ reserved (.returnVouchers sl)
        ++ [entry kind 0 spaces, .handBack 1, .endSlot sl st 0 x, .verdict .taken]
    let leadsTo (c : Instr) (y : Shadow) (acts : List Act) : Prop := ∃ t, exec c s = .next { s with part := t } ∧
      t.slotAfter sl = y ∧ (∀ m, m ≠ sl → t.slotAfter m = p.slot m) ∧
      t.shows = p.shows ∧ t.clock = p.clock ∧ t.setup = p.setup ∧ t.order.prices = p.order.prices ∧
      (pace = .parts → t.task .order = ⟨acts, true⟩ ∧
        t = { p with work := t.work, order := { p.order with due := t.order.due } })
    p.freeFor .order → p.busy .print = false → p.accepted = true →
    (∀ r rest, p.tender.requests = r :: rest → p.tender.handed = true → r.slot = sl.val →
      (∀ auth, x.state = .tendering → x.seq = some r.seq →
        (r.kind = .result 1 auth → leadsTo (.takenResult pace) { x with
          state := .approved, auth := some auth, reserved := 0 }
          ([.sale sl] ++ reserved (.issue sl) ++ [entry .approved 0 (authWords auth), .handBack 1, .approve sl auth x,
            .handoff sl .preferred, .verdict .taken])) ∧
        (r.kind = .result 2 auth → leadsTo (.takenResult pace) { x with
          state := .declined, reserved := 0, vouchers := [] } (unsold .declined .declined)) ∧
        (r.kind = .result 3 auth → leadsTo (.takenResult pace) { x with
          state := .cancelled, reserved := 0, vouchers := [] } (unsold .cancelled .cancelled))) ∧
      (∀ o auth, o = 1 ∨ o = 2 ∨ o = 3 → r.kind = .result o auth → x.state ≠ .tendering → x.state ≠ .timedOut →
        ∃ t, exec (.takenResult pace) s = .next { s with part := t } ∧
          t = { p with work := t.work, tender := { p.tender with
            requests := rest, handed := false, lastRejected := true, shift := t.tender.shift } }) ∧
      (∀ o auth, o = 1 ∨ o = 2 ∨ o = 3 → r.kind = .result o auth → x.state = .timedOut → x.seq = some r.seq →
        x.late = none → leadsTo (.lateResult pace) { x with
          late := some (if o = 1 then .approved else .declined), reserved := 0 }
          [entry .lateResult (if o = 1 then 1 else 2) (if o = 1 then authWords auth else spaces), .flag 0 .lateResult,
            .lateEnd sl (if o = 1 then .approved else .declined), .verdict .tooLate]) ∧
      (r.kind = .abandon → x.state = .tendering → leadsTo (.takenAbandon pace) { x with
        state := .abandoned, reserved := 0, vouchers := [] } (unsold .abandoned .abandoned))) ∧
    (∀ rest d, p.order.due = sl :: rest → x.state = .tendering → x.deadline = some d →
      reached p.clock.run d = true →
      leadsTo (.tenderTimeout pace) { x with state := .timedOut, reserved := 1, vouchers := [] }
        ([.returnSeats sl] ++ reserved (.returnVouchers sl) ++ [entry .timedOut 0 spaces, .endSlot sl .timedOut 1 x]))) ∧
  (∀ (s : State) (sl : SlotNo) (v : Verdict), let p := s.part
    let x := p.slot sl
    p.freeFor .log → p.accepted = true → p.clearFor 5 →
    (∀ auth, p.task .order = ⟨[.handBack 1, .approve sl auth x, .handoff sl .preferred, .verdict v], true⟩ →
      let y : Shadow := { x with state := .approved, auth := some auth, reserved := 0 }
      ∃ t, exec (.logHandBack .order) s = .next { s with part := t } ∧ t.slot sl = y ∧ p.StatusPlaced t sl x y ∧
        t.log = { p.log with reserved := p.log.reserved - 1 } ∧
        t.task .order = ⟨[.handoff sl .preferred, .verdict v], true⟩) ∧
    (∀ st, st = .declined ∨ st = .cancelled ∨ st = .abandoned → x.state = .tendering →
      p.task .order = ⟨[.handBack 1, .endSlot sl st 0 x, .verdict v], true⟩ →
      let y : Shadow := { x with state := st, reserved := 0, vouchers := [] }
      ∃ t, exec (.logHandBack .order) s = .next { s with part := t } ∧ t.slot sl = y ∧ p.StatusPlaced t sl x y ∧
        t.log = { p.log with reserved := p.log.reserved - 1 } ∧
        t.task .order = ⟨[.flag x.ownerLane .orderEnd, .verdict v], true⟩)) ∧
  (∀ (s : State) (r : LinkReq) (rest : List LinkReq) (v : Verdict), let p := s.part
    let l := p.tender
    let given (t : Part) : Prop := (t.task .order).acts = [] ∧ t.hold = p.hold ∧
      t.tender = { l with
        requests := rest, handed := false, lastRejected := decide (v ≠ .taken)
        shift := if r.live then l.shift.map fun y => { y with delivery := .decided v } else l.shift }
    p.calm → p.accepted = true → l.requests = r :: rest →
    (∀ sl c, p.busy .print = false → p.task .order = ⟨[.handoff sl c, .verdict v], true⟩ →
      ∃ t, exec .jobHandoff s = .next { s with part := t } ∧ given t ∧ t.order = p.order) ∧
    (∀ n f, p.busy .attention = false → p.task .order = ⟨[.flag n f, .verdict v], true⟩ →
      ∃ t, exec (.setRequest .order) s = .next { s with part := t } ∧ given t ∧ t.order = p.order) ∧
    (∀ sl o, p.busy .attention = false → p.room 3 →
      p.task .order = ⟨[.flag 0 .lateResult, .lateEnd sl o, .verdict v], true⟩ →
      ∃ t, exec (.setRequest .order) s = .next { s with part := t } ∧ given t ∧
        t.slot sl = { p.slot sl with late := some o, reserved := 0 } ∧
        (p.clearFor 3 → p.StatusPlaced t sl (p.slot sl) (t.slot sl)) ∧ ∀ m, m ≠ sl → t.slot m = p.slot m))

/-- QUIET_SPELL in SWEEPING or RUNNING, the examination of a second event (R109), the link's block being free, by the
waiting condition: without it the count is 0 and the mark clear; with it and TSEL low the count is 0; with TSEL high and
the mark clear it rises by 1 and at 20 sets the mark and, the attention unit being free, TENDER_QUIET for lane 0. Nothing
else changes. That the examination is a step of its own, which finds the waiting condition as it then stands, is the
model's choice (log 12). -/
def Obligations.QuietSpell : Prop :=
  ∀ s : State, let p := s.part
    let l := { p.tender with examine := false }
    let waits := p.mode == .running && !p.order.payQueue.isEmpty && decide (p.order.window.length < 4)
    p.freeFor .tender → p.accepted = true → p.tender.examine = true →
    (waits = false → exec .quietSpell s = .next { s with part := { p with tender := { l with
      quiet := 0, quietRaised := false } } }) ∧
    (waits = true → l.shift ≠ none → exec .quietSpell s = .next { s with part := { p with tender := { l with quiet := 0 } } }) ∧
    (waits = true → l.shift = none → l.quietRaised = true → exec .quietSpell s = .next { s with part := { p with tender := l } }) ∧
    (waits = true → l.shift = none → l.quietRaised = false → l.quiet + 1 < 20 →
      exec .quietSpell s = .next { s with part := { p with tender := { l with quiet := l.quiet + 1 } } }) ∧
    (waits = true → l.shift = none → l.quietRaised = false → 20 ≤ l.quiet + 1 →
      ∃ t, exec .quietSpell s = .next { s with part := t } ∧
        Part.Flagged { p with tender := { l with quiet := l.quiet + 1, quietRaised := true } } t ∧
        (p.busy .attention = false → Flag.tenderQuiet.isIn (t.att 0).flags = true))

/-! ### Printing -/

/-- JOB_HANDOFF (R118), the print engine being free: the slot joins the tail of the requested printer's queue, or of the
other's when the requested one is OFFLINE and the other is not. JOB_START (R121): an IDLE side takes the head job with
the slot's reprint number and goes to STREAMING from offset 0; with room and the order unit free the slot, APPROVED,
is led to PRINTING with its progress and first serial cleared (R87). With room the printer state word is rewritten at
each, as it changes (R120), in the format of 10.2, and at a start the slot's status words (R68). -/
def Obligations.JobHandoffAndStart : Prop :=
  (∀ (x : Side) (exhausted : Bool) (n : Nat), printerStateWords x exhausted n =
    let st : Nat := match x.state with | .idle => 0 | .streaming => 1 | .faulted => 2 | .offline => 3
    let c : Nat := match x.cause with | .none => 0 | .paperOut => 1 | .jam => 2 | .coverOpen => 3 | .busyLimit => 4
    (wordOf (st + 4 * c + (if x.paperLow then 32 else 0) + (if exhausted then 64 else 0) + 256 * x.busy),
      wordOf (n + 256 * match x.job with | none => 31 | some sl => sl.val))) ∧
  (∀ (sl : SlotNo) (c : Choice) (rest : List Act) (parts : Bool) (s : State), let p := s.part
    let asked : Printer := match c with
      | .preferred => p.print.preferred[(p.slot sl).ownerLane]
      | .printer d => d
    let other : Printer := if asked = 0 then 1 else 0
    let d := if (p.sideAt asked).state = .offline ∧ (p.sideAt other).state ≠ .offline then other else asked
    p.freeFor .print → p.accepted = true → p.task .order = ⟨.handoff sl c :: rest, parts⟩ → stops parts rest →
    ∃ t, exec .jobHandoff s = .next { s with part := t } ∧ (t.task .order).acts = rest ∧
      Part.Placed { p with print := { p.print with queues := t.print.queues } } t ∧
      (p.clearFor 2 → p.PrinterPlaced t d) ∧
      ∀ e, t.printQueue e = if e = d then p.printQueue e ++ [sl] else p.printQueue e) ∧
  (∀ (d : Printer) (sl : SlotNo) (q : List SlotNo) (s : State), let p := s.part
    let x := p.slot sl
    p.freeFor (.side d) → p.accepted = true → p.printQueue d = sl :: q → (p.sideAt d).state = .idle →
    ∃ t, exec (.jobStart d) s = .next { s with part := t } ∧
      t.sideAt d = { p.sideAt d with
        state := .streaming, busy := 0, job := some sl, reprint := x.reprints, bodyLen := none, offset := 0,
        placed := 0, word := none, buf := [], kind := .data, stage := .empty } ∧
      (∀ e, e ≠ d → t.sideAt e = p.sideAt e) ∧ t.print.queues = p.print.queues ∧ t.print.serial = p.print.serial ∧
      t.hold = p.hold ∧ t.tender = p.tender ∧ t.log = p.log ∧ t.directory = p.directory ∧
      (p.clearFor 2 → p.PrinterPlaced t d) ∧
      (p.room 2 → p.busy .order = false → x.state = .approved →
        let y : Shadow := { x with state := .printing, offset := 0, strips := 0, firstSerial := none }
        t.slotAfter sl = y ∧ (p.clearFor 7 → p.StatusPlaced t sl x y)))

/-- BLOCK_FILL of a STREAMING side with an empty buffer (R122, R123). A run that has read nothing asks the print
reader for its spool word. When the body is used up, one more strip is placed with the serial counter's value, which
advances (R116), and the DATA block of 24 bytes is ready; the first strip of a run waits for its progress request with
its serial (R124). The strip that takes FFFFFFFFh sets the exhausted mark in place of the advance, and with the mark
set the run halts instead, the side going to IDLE (R116, R130). That both printers' state words are placed at once also
where that strip is the first of its run, ahead of its progress request, is the model's choice (log 45). When the stream has ended, the CUT block is ready. A
strip marker in the body puts the next strip into the stream while one is left, and is dropped otherwise; another body
byte is put in, the high byte of its word at an even offset, the low byte at an odd one (R112, R113). SPOOL_READ
(R122): the word that the first asking side needs is read, from the update queue or in the print reader's grant, and
nothing of memory changes. Word 0 gives the body length, a value above 508 as 508 (R112). A side one byte short of a
full block takes the high byte of the word at an even offset, when it is no strip marker, as its next body byte, and
its DATA block is ready (R112, R123). A block in which fewer than 24 bytes are left is closed as it stands before a strip
that is still to be placed, at a strip marker, which the next block meets again, or at the end of the body (R123). With no ask nothing changes. -/
def Obligations.BlockFillAndSpoolRead : Prop :=
  (∀ (d : Printer) (sl : SlotNo) (s : State), let p := s.part
    let x := p.sideAt d
    let total := (p.slot sl).seatCount + (p.slot sl).vouchers.length
    p.freeFor (.side d) → p.accepted = true → x.state = .streaming → x.stage = .empty → x.job = some sl → x.buf = [] →
    (x.bodyLen = none → x.word = none → d ∉ p.print.reader →
      ∃ t, exec (.blockFill d) s = .next { s with part := t } ∧
        t.print = { p.print with reader := p.print.reader ++ [d], sides := t.print.sides } ∧
        t.sideAt d = { x with stage := .filling } ∧ t.order = p.order ∧ t.queue = p.queue) ∧
    (∀ len, x.bodyLen = some len → len ≤ x.offset → x.placed < total → p.print.exhausted = false →
      p.print.serial ≠ 0xFFFFFFFF →
      let y : Side := { x with buf := strip p sl x.placed p.print.serial x.reprint, placed := x.placed + 1 }
      ∃ t, exec (.blockFill d) s = .next { s with part := t } ∧ t.print.serial = p.print.serial + 1 ∧
        t.print.exhausted = false ∧ t.order = p.order ∧ t.queue = p.queue ∧
        (0 < x.placed → t.sideAt d = { y with stage := .ready, kind := .data } ∧ (t.task (.side d)).acts = []) ∧
        (x.placed = 0 → t.sideAt d = { y with stage := .filling } ∧
          (t.task (.side d)).acts =
            [.askProgress d none (some p.print.serial), .fill d])) ∧
    (∀ len, x.bodyLen = some len → len ≤ x.offset → total ≤ x.placed →
      ∃ t, exec (.blockFill d) s = .next { s with part := t } ∧
        t.sideAt d = { x with stage := .ready, kind := .cut } ∧ t.order = p.order ∧ t.queue = p.queue ∧
        t.print.serial = p.print.serial) ∧
    (∀ len, x.bodyLen = some len → len ≤ x.offset → x.placed < total → p.print.exhausted = false →
      p.print.serial = 0xFFFFFFFF →
      ∃ t, exec (.blockFill d) s = .next { s with part := t } ∧ t.print.serial = 0xFFFFFFFF ∧
        t.print.exhausted = true ∧ (t.sideAt d).buf = strip p sl x.placed 0xFFFFFFFF x.reprint ∧
        (t.sideAt d).placed = x.placed + 1 ∧ (p.clearFor 4 → ∀ e, p.PrinterPlaced t e)) ∧
    (∀ len, x.bodyLen = some len → len ≤ x.offset → x.placed < total → p.print.exhausted = true →
      ∃ t, exec (.blockFill d) s = .next { s with part := t } ∧
        t.sideAt d = { x with
          state := .idle, busy := 0, job := none, reprint := 0, bodyLen := none, offset := 0, placed := 0
          word := none, buf := [], kind := .data, stage := .empty } ∧
        t.printQueue d = (p.printQueue d).erase sl ∧ t.print.serial = p.print.serial ∧ t.print.exhausted = true ∧
        (p.busy .order = false → t.slotAfter sl = { p.slot sl with state := .printHalted }) ∧
        (p.room 7 → p.busy .order = false → p.busy .attention = false →
          Flag.printFault.isIn (t.att (p.slot sl).ownerLane).flags = true ∧
          Flag.printerDown.isIn (t.att 0).flags = true)) ∧
    (∀ (len : Nat) (w : Word), x.bodyLen = some len → x.offset < len → x.word = some (1 + x.offset / 2, w) →
      let byte : Byte := if x.offset % 2 = 0 then hiByte w else loByte w
      let filled (y : Side) (acts : List Act) : Prop := ∃ t, exec (.blockFill d) s = .next { s with part := t } ∧
        t.sideAt d = y ∧ (t.task (.side d)).acts = acts ∧ t.order = p.order ∧ t.queue = p.queue
      (byte = 0x1D → p.print.exhausted = false → p.print.serial ≠ 0xFFFFFFFF →
        let y : Side := { x with
          buf := strip p sl x.placed p.print.serial x.reprint, placed := x.placed + 1, offset := x.offset + 1 }
        (x.placed = 0 → 0 < total →
          filled { y with stage := .filling } [.askProgress d none (some p.print.serial), .fill d]) ∧
        (0 < x.placed → x.placed + 1 = total → x.offset + 1 = len →
          filled { y with stage := .ready, kind := .data } [])) ∧
      (byte = 0x1D → total ≤ x.placed → x.offset + 1 = len →
        filled { x with offset := len, stage := .ready, kind := .cut } []) ∧
      (byte ≠ 0x1D → total ≤ x.placed → x.offset + 1 = len →
        filled { x with buf := [byte], offset := len, stage := .ready, kind := .data } []))) ∧
  (∀ (d : Printer) (sl : SlotNo) (w : Word) (parts : Bool) (others : List Printer) (s : State), let p := s.part
    let x := p.sideAt d
    let a := p.spoolAddr sl 0
    p.waiters = [] ∨ p.waiters = [.side d] → p.accepted = true → p.print.reader = d :: others → d ∉ others →
    x.job = some sl → x.bodyLen = none → x.word = none → x.offset = 0 → 0 < w.toNat →
    p.task (.side d) = ⟨[.fill d], parts⟩ →
    (queueFind p.queue a = some w ∨
      queueFind p.queue a = none ∧ p.firstAsker = some .printReader ∧ w = s.mem.read a.toNat) →
    ∃ t, exec .spoolRead s = .next { s with part := t } ∧ t.sideAt d = { x with bodyLen := some (min 508 w.toNat) } ∧
      t.print.reader = others ++ [d] ∧ t.order = p.order ∧ t.queue = p.queue) ∧
  ((∀ (d : Printer) (sl : SlotNo) (w : Word) (len : Nat) (parts : Bool) (others : List Printer) (s : State), let p := s.part
    let x := p.sideAt d
    let a := p.spoolAddr sl (1 + x.offset / 2)
    p.waiters = [] ∨ p.waiters = [.side d] → p.accepted = true → p.print.reader = d :: others → x.job = some sl → x.bodyLen = some len →
    x.offset < len → x.offset % 2 = 0 → x.word.map (·.1) ≠ some (1 + x.offset / 2) →
    p.task (.side d) = ⟨[.fill d], parts⟩ →
    (queueFind p.queue a = some w ∨
      queueFind p.queue a = none ∧ p.firstAsker = some .printReader ∧ w = s.mem.read a.toNat) →
    let closes (buf : List Byte) (offset : Nat) : Prop := ∃ t, exec .spoolRead s = .next { s with part := t } ∧
      t.print = { p.print with reader := others, sides := t.print.sides } ∧
      t.sideAt d = { x with word := some (1 + x.offset / 2, w), buf, offset, stage := .ready, kind := .data } ∧
      (∀ e, e ≠ d → t.sideAt e = p.sideAt e) ∧ (t.task (.side d)).acts = [] ∧
      t.order = p.order ∧ t.queue = p.queue ∧ t.directory = p.directory
    let left : Prop := x.placed < (p.slot sl).seatCount + (p.slot sl).vouchers.length
    (hiByte w ≠ 0x1D → x.buf.length = 31 → closes (x.buf ++ [hiByte w]) (x.offset + 1)) ∧
    (hiByte w = 0x1D → left → 32 < x.buf.length + 24 → closes x.buf x.offset) ∧
    (hiByte w ≠ 0x1D → left → 32 < x.buf.length + 1 + 24 → x.offset + 1 = len →
      closes (x.buf ++ [hiByte w]) (x.offset + 1))) ∧
  (∀ s : State, s.part.calm → s.part.print.reader = [] → exec .spoolRead s = .next s))

/-- The link arbiter's turn (R127): while the link is free, of two sides that want it the one other than the last
served, else the one that wants it; a side wants it with a ready block of its run or a poll due, and with no progress
request of its own still to be taken or, in a run, to be decided to its end (R124, logs 42 and 48). DATA_BLOCK, CUT_BLOCK and STATUS_BLOCK begun at the turn of a
side (R125, R126): kind, length, payload and CRC-8 are sent, the side is the last served, a poll's due mark is
cleared. PROGRESS_REQUEST with nothing of the side left after it (R87, R124): the PRINTING slot is led to the new
progress, the first serial recorded when the request carries one, its status words with room placed (R68), and the side
waits while the order unit's decision of it is not complete; with room it is complete at once. -/
def Obligations.BlocksAndProgress : Prop :=
  (∀ (p : Part) (d e : Printer), d ≠ e →
    let wants (f : Printer) : Prop :=
      ((p.sideAt f).state = .streaming ∧ (p.sideAt f).stage = .ready ∨ (p.sideAt f).pollDue = true) ∧
        (∀ x taken first, .askProgress x taken first ∉ (p.task (.side f)).acts) ∧
        ((p.sideAt f).state = .streaming → .await .order ∉ (p.task (.side f)).acts)
    (p.print.exchange ≠ none → p.nextServed = none) ∧
    (p.print.exchange = none →
      (wants d → wants e → p.print.lastServed = e → p.nextServed = some d) ∧
      (wants d → ¬wants e → p.nextServed = some d) ∧
      (¬wants d → ¬wants e → p.nextServed = none))) ∧
  (∀ (d : Printer) (kind : BlockKind) (s : State), let p := s.part
    let x := p.sideAt d
    let body : List Byte := if kind = .data then [0xD1, BitVec.ofNat 8 x.buf.length] ++ x.buf
      else if kind = .cut then [0xC2, 0] else [0x53, 0]
    p.calm → p.accepted = true → p.nextServed = some d → x.nextKind = kind →
    ∃ t, exec (match kind with | .data => .dataBlock d none | .cut => .cutBlock d none | .status => .statusBlock d none) s
        = .next { s with part := t } ∧
      t = { p with print := { p.print with
        sides := t.print.sides, exchange := some ⟨d, kind, false⟩, lastServed := d, sent := t.print.sent } } ∧
      t.print.sent = body ++ [crc8 body] ∧
      t.sideAt d = (if kind = .status then { x with pollDue := false } else { x with stage := .exchange }) ∧
      ∀ e, e ≠ d → t.sideAt e = p.sideAt e) ∧
  (∀ (d : Printer) (sl : SlotNo) (taken : Option (Nat × Nat)) (f : Option (BitVec 32)) (parts : Bool) (s : State),
    let p := s.part
    let x := p.slot sl
    p.freeFor .order → p.accepted = true → p.task (.side d) = ⟨[.askProgress d taken f], parts⟩ →
    (p.sideAt d).job = some sl → x.state = .printing →
    ∃ t, exec (.progressRequest d) s = .next { s with part := t } ∧
      (t.task (.side d)).acts = (if t.busy .order then [.await .order] else []) ∧
      (p.room 4 → t.busy .order = false ∧ t.slot sl = t.slotAfter sl) ∧
      (p.clearFor 4 → p.StatusPlaced t sl x (t.slotAfter sl)) ∧
      t.slotAfter sl = { x with
        offset := match taken with | some y => y.1 | none => x.offset
        strips := match taken with | some y => y.2 | none => x.strips
        firstSerial := if f.isSome then f else x.firstSerial } ∧
      (∀ m, m ≠ sl → t.slot m = p.slot m) ∧ t.print = p.print ∧ t.hold = p.hold ∧ t.log = p.log)

/-- A printer's answer to the exchange in progress of a side whose block is free (R128 to R131). READY or PAPER_LOW takes
the block; BUSY or an unrecognised byte holds it for retry and counts, and the 40th makes the side OFFLINE with
BUSY_LIMIT; PAPER_OUT, JAM and COVER_OPEN make it FAULTED with that cause. A side that goes OFFLINE or FAULTED drops its
job, which leaves its queue, and the slot, PRINTING with the order unit free, is led to PRINT_HALTED. A taken
CUT block leads the slot to DONE; with room and the attention unit free it is DONE, and then the side IDLE and its job
out of the queue (R129). A poll answered READY or PAPER_LOW makes the side IDLE. With room, the order and attention
units free, a halt sets PRINT_FAULT for the owner and PRINTER_DOWN for lane 0 (R130), and the printer state word is
rewritten as it changes (R120). With room a poll that takes a side from OFFLINE to FAULTED sets PRINTER_DOWN (R131),
after the word, by the model's choice (log 45). -/
def Obligations.PrinterAnswers : Prop :=
  ∀ (d : Printer) (s : State) (b : Byte), let p := s.part
    let x := p.sideAt d
    let stopped (y : Part) (st : SideState) (c : FaultCause) : Prop :=
      y.sideAt d = { x with
        state := st, cause := c, busy := 0, job := none, reprint := 0, bodyLen := none, offset := 0, placed := 0
        word := none, buf := [], kind := .data, stage := .empty }
    p.freeFor (.side d) → p.accepted = true →
    (∀ (sl : SlotNo) (kind : BlockKind), kind ≠ .status → p.print.exchange = some ⟨d, kind, false⟩ → x.job = some sl →
      ∃ t, exec (if kind = .data then .dataBlock d (some b) else .cutBlock d (some b)) s = .next { s with part := t } ∧
        t.print.exchange = none ∧ (∀ e, e ≠ d → t.sideAt e = p.sideAt e ∧ t.printQueue e = p.printQueue e) ∧
        t.hold = p.hold ∧ t.tender = p.tender ∧ t.log = p.log ∧
        (p.clearFor 7 → p.busy .order = false → p.busy .attention = false → p.PrinterPlaced t d ∧
          (b = 0x10 ∨ b = 0x11 ∨ b = 0x12 ∨ b ≠ 0x06 ∧ b ≠ 0x07 ∧ 40 ≤ x.busy + 1 →
            Flag.printFault.isIn (t.att (p.slot sl).ownerLane).flags = true ∧
            Flag.printerDown.isIn (t.att 0).flags = true)) ∧
        (b = 0x06 ∨ b = 0x07 → kind = .data →
          t.sideAt d = { x with busy := 0, paperLow := b == 0x07, buf := [], stage := .empty } ∧
          (p.room 2 → (t.task (.side d)).acts = [.askProgress d (some (x.offset, x.placed)) none])) ∧
        (b = 0x06 ∨ b = 0x07 → kind = .cut → p.room 2 → p.busy .order = false → (p.slot sl).state = .printing →
          t.slotAfter sl = { p.slot sl with state := .done } ∧
          (p.room 3 → p.busy .attention = false → t.slot sl = { p.slot sl with state := .done } ∧
            t.sideAt d = { x with
              state := .idle, paperLow := b == 0x07, busy := 0, job := none, reprint := 0, bodyLen := none, offset := 0
              placed := 0, word := none, buf := [], kind := .data, stage := .empty } ∧
            t.printQueue d = (p.printQueue d).erase sl)) ∧
        (b ≠ 0x06 → b ≠ 0x07 → b ≠ 0x10 → b ≠ 0x11 → b ≠ 0x12 →
          (x.busy + 1 < 40 → t.sideAt d = { x with busy := x.busy + 1, stage := .held }) ∧
          (40 ≤ x.busy + 1 → stopped t .offline .busyLimit ∧ t.printQueue d = (p.printQueue d).erase sl ∧
            (p.busy .order = false → t.slotAfter sl = { p.slot sl with state := .printHalted }))) ∧
        (∀ c, b = 0x10 ∧ c = .paperOut ∨ b = 0x11 ∧ c = .jam ∨ b = 0x12 ∧ c = .coverOpen →
          stopped t .faulted c ∧ t.printQueue d = (p.printQueue d).erase sl ∧
          (p.busy .order = false → t.slotAfter sl = { p.slot sl with state := .printHalted }))) ∧
    (p.print.exchange = some ⟨d, .status, false⟩ →
      ∃ t, exec (.statusBlock d (some b)) s = .next { s with part := t } ∧ t.print.exchange = none ∧
        t.order = p.order ∧ t.print.queues = p.print.queues ∧ (∀ e, e ≠ d → t.sideAt e = p.sideAt e) ∧
        t.sideAt d = (if b = 0x06 ∨ b = 0x07 then { x with state := .idle, cause := .none, paperLow := b == 0x07 }
          else if b = 0x10 then { x with state := .faulted, cause := .paperOut }
          else if b = 0x11 then { x with state := .faulted, cause := .jam }
          else if b = 0x12 then { x with state := .faulted, cause := .coverOpen }
          else x) ∧
        (p.clearFor 4 → p.busy .attention = false → p.PrinterPlaced t d) ∧
        (b = 0x10 ∨ b = 0x11 ∨ b = 0x12 → x.state = .offline → p.room 2 → p.busy .attention = false →
          Flag.printerDown.isIn (t.att 0).flags = true))

/-! ### Check codes -/

/-- The CRC-8: from 00h, for each bit, most significant first, the register is shifted left by one, and XORed with 07h if
the bit that left it differs from the data bit; the check byte is the final value. It checks bytes 1 to 13 of a request
frame, and a result or abandon frame is good exactly when its last byte is the CRC-8 of those before it, whatever the
command and status bytes. Blocks of the printer link use the same code. -/
def Obligations.CrcEight : Prop :=
  crc8 [] = 0x00 ∧
  (∀ (bs : List Byte) (b : Byte), crc8 (bs ++ [b]) =
    ([7, 6, 5, 4, 3, 2, 1, 0] : List Nat).foldl (fun (r : Byte) i =>
      if r.getLsbD 7 = b.getLsbD i then r <<< 1 else (r <<< 1) ^^^ 0x07) (crc8 bs)) ∧
  (∀ (sl : SlotNo) (x : Shadow) (seq : Byte), (fetchFrame sl x seq).length = 14 ∧
    fetchFrame sl x seq = (fetchFrame sl x seq).take 13 ++ [crc8 ((fetchFrame sl x seq).take 13)]) ∧
  (∀ (p : Part) (tr : Transaction) (bs : List Byte) (check : Byte) (kind : LinkKind), p.mode = .running →
    p.tender.requests.length < 4 →
    ((frameArrives p tr (bs ++ [check]) kind).requests.length = p.tender.requests.length + 1 ↔ check = crc8 bs)) ∧
  (∀ (kind : BlockKind) (payload : List Byte), ∃ head, head.length = payload.length + 2 ∧
    blockBytes kind payload = head ++ [crc8 head])

/-- The CRC-16 of a strip: from FFFFh, for each bit of its first 22 bytes, most significant first, the register is
shifted left by one, and XORed with 1021h if the bit that left it differs from the data bit. The final value is sent
high byte first as bytes 23 and 24; so two strips with different checks differ in one of their first 22 bytes. -/
def Obligations.CrcSixteen : Prop :=
  crc16 [] = 0xFFFF ∧
  (∀ (bs : List Byte) (b : Byte), crc16 (bs ++ [b]) =
    ([7, 6, 5, 4, 3, 2, 1, 0] : List Nat).foldl (fun (r : Word) i =>
      if r.getLsbD 15 = b.getLsbD i then r <<< 1 else (r <<< 1) ^^^ 0x1021) (crc16 bs)) ∧
  (∀ (p : Part) (sl : SlotNo) (k : Nat) (serial : BitVec 32) (reprint : Nat),
    let x := strip p sl k serial reprint
    x.length = 24 ∧ x[22]? = some (hiByte (crc16 (x.take 22))) ∧ x[23]? = some (loByte (crc16 (x.take 22))))

/-! ### Setup -/

/-- HEADER_WORD_WRITE. In TRANSPARENT a write by lane 0 to a header word 00h to 1Eh is performed in its grant and
captured: word 00h restarts the capture, the word at the cursor is captured and advances it, any other discards the
captured words (R58, R170). In SWEEPING and RUNNING it is refused: ROLE from lanes 1 to 5, LAPSED from a LAPSED lane 0,
else BUSY (R172). -/
def Obligations.HeaderWordWrite : Prop :=
  (∀ (s : State) (a : Addr) (v : Word) (k : Nat), let p := s.part
    let u := p.setup
    p.calm → Memory.wf s.mem → p.laneWrite 0 = some (a, v) → p.treatment 0 a = .capture k →
    queueFind p.queue a = none → p.firstAsker = some (.lane 0) →
    ∃ m t, exec (.headerWordWrite 0) s = .next { s with mem := m, part := t } ∧
      (∀ b, Memory.read m b = if b = a.toNat then v else s.mem.read b) ∧
      t = { p.setLane 0 (fun l => { l with access := none }) with
        setup := t.setup, rotation := p.rotation.erase (.lane 0) ++ [.lane 0] } ∧
      t.setup = { u with cursor := t.setup.cursor, header := t.setup.header } ∧ k < 31 ∧ a.toNat = k ∧
      t.setup.cursor = (if k = 0 then 1 else if k = u.cursor then k + 1 else 0) ∧
      ∀ j : Fin 31, t.setup.header[j] = if k = 0 then (if j.val = 0 then some v else none)
        else if k = u.cursor then (if j.val = k then some v else u.header[j]) else none) ∧
  (∀ (n : Lane) (s : State) (a : Addr) (v : Word), let p := s.part
    p.offers n a v .headerWord .setup →
    ∃ t, exec (.headerWordWrite n) s = .next { s with part := t } ∧
      p.Refuses t n a (if n ≠ 0 then .role else if (p.lane 0).lapsed = true then .lapsed else .busy))

/-- ACCEPT in TRANSPARENT, the setup controller being free and the queue with room (R171, R173, R174). A write by
lanes 1 to 5, and one by lane 0 that is not ACCEPT, only has its value placed, by the row of WITHDRAW if that is its
value, else by that of ACCEPT, the model's choice (log 6). With an incomplete capture the result word is SETUP_FORM,
sub-reason SEQUENCE, with the cursor; of the checks of R173, in their order, the first that fails gives the sub-reason
and the failing word; the part is TRANSPARENT, the capture is ended, the write completes and SETUP_STATE is set for
lane 0, the attention unit being free. A header that passes puts the part to CHECKING with the result ACCEPTED, once
no block is still to take its withdrawal values (log 22) every block has its header values, and the price table is
read next. In SWEEPING and RUNNING both values of lanes 1 to 5, and any other, are refused ROLE, of a LAPSED lane 0
LAPSED; of an ACTIVE lane 0 ACCEPT is refused BUSY, and a value that is neither BAD_REQUEST (R57, R172). -/
def Obligations.Accept : Prop :=
  (∀ (n : Lane) (s : State) (a : Addr) (v : Word), let p := s.part
    let c : Instr := if v = wordWithdraw then .withdraw n else .accept n
    n ≠ 0 ∨ v ≠ wordAccept → p.offers n a v .headerClose .setup → p.accepted = false → p.room 1 → p.noPass a →
    ∃ t, exec c s = .next { s with part := t } ∧ Part.Placed (p.afterWrite n) t ∧ (t.lane n).access = none ∧
      queueFind t.queue a = some v) ∧
  (∀ (n : Lane) (s : State) (a : Addr) (v : Word), let p := s.part
    let c : Instr := if v = wordWithdraw then .withdraw n else .accept n
    let refused (r : Reason) : Prop := ∃ t, exec c s = .next { s with part := t } ∧ p.Refuses t n a r
    p.offers n a v .headerClose .setup → p.accepted = true →
    (n ≠ 0 → refused .role) ∧ (n = 0 → (p.lane 0).lapsed = true → refused .lapsed) ∧
    (n = 0 → (p.lane 0).lapsed = false → v ≠ wordAccept → v ≠ wordWithdraw → refused .badRequest)) ∧
  (∀ (s : State) (a : Addr), let p := s.part
    let u := p.setup
    let w (k : Nat) : Nat := u.word k
    let role (n : Lane) : Nat := w 0x0A / 4 ^ n.val % 4
    let word : Fin 5 → Nat := ![0x00, 0x02, 0x03, 0x04, 0x05]
    let base (j : Fin 5) : Nat := w (word j) * 256
    let size : Fin 5 → Nat := ![w 0x01 * 256, 3 * 256, 24 * 256, 4 * 256, 2 ^ w 0x06 * 8]
    let checks : List (Bool × Nat × Nat) :=
      [(decide (5 ≤ w 0x06 ∧ w 0x06 ≤ 9), 2, 0x06), (decide (1 ≤ w 0x01 ∧ w 0x01 ≤ 64), 3, 0x01)]
      ++ (List.finRange 5).map (fun j => (decide (2 ≤ w (word j) ∧ base j + size j ≤ 0x40000), 3, word j))
      ++ (List.finRange 5).map (fun j =>
        (decide (∀ i, i < j → base i + size i ≤ base j ∨ base j + size j ≤ base i), 3, word j))
      ++ [(decide (30 ≤ w 0x07 ∧ w 0x07 ≤ 900), 4, 0x07), (decide (w 0x08 ≤ 1), 5, 0x08),
          (decide (30 ≤ w 0x09 ∧ w 0x09 ≤ 240), 6, 0x09), (decide (∀ n, role n ≠ 3), 7, 0x0A),
          (decide (w 0x0B < 64), 8, 0x0B)]
      ++ (List.finRange 6).map (fun n => (decide (if role n = 1 then 1 ≤ w (0x0C + n.val) ∧ w (0x0C + n.val) ≤ 24
        else w (0x0C + n.val) = 0), 9, 0x0C + n.val))
      ++ [(decide (w 0x13 ≤ 1439), 10, 0x13), (decide (w 0x14 ≠ 0), 11, 0x14), (decide (w 0x15 ≤ 255), 11, 0x15),
          (decide (w 0x18 ≤ 1), 12, 0x18)]
    let fails (sub failing : Nat) : Prop := ∃ t, exec (.accept 0) s = .next { s with part := t } ∧
      t.mode = .transparent ∧ t.setup.cause = u.cause ∧ t.setup.cursor = 0 ∧ (∀ j : Fin 31, t.setup.header[j] = none) ∧
      t.setup.result = wordOf (0x8000 + sub * 256 + failing) ∧ t.shows = p.shows ∧ t.order = p.order ∧
      t.windows = p.windows ∧ t.clock = (p.afterWrite 0).clock ∧ (t.lane 0).access = none ∧
      Flag.setupState.isIn (t.att 0).flags = true
    p.offers 0 a wordAccept .headerClose .setup → p.mode = .transparent → p.busy .attention = false → p.room 6 →
    (∀ n, p.passedWrite n = none) →
    (u.cursor ≠ 31 → fails 1 u.cursor) ∧
    (∀ sub failing, u.cursor = 31 → checks.find? (fun c => !c.1) = some (false, sub, failing) → fails sub failing) ∧
    (u.cursor = 31 → (∀ c ∈ checks, c.1 = true) →
      (∃ b ∈ withdrawnBlocks, .withdraw b ∈ (p.task b).acts) ∨ (∃ x, p.print.exchange = some x ∧ x.discard = true) →
      ∃ t, exec (.accept 0) s = .next { s with part := t } ∧ t.mode = .checking ∧ t.wait 0 = true ∧
        t.windows = p.windows ∧ t.hold = p.hold ∧ t.tender = p.tender ∧ t.print = p.print ∧ t.log = p.log ∧
        ∀ n, (t.lane n).role = (p.lane n).role) ∧
    (u.cursor = 31 → (∀ c ∈ checks, c.1 = true) → queueFind p.queue (addrOf 0xC0) = none →
      (∀ b ∈ withdrawnBlocks, .withdraw b ∉ (p.task b).acts) → (∀ x, p.print.exchange = some x → x.discard = false) →
      ∃ t, exec (.accept 0) s = .next { s with part := t } ∧ t.mode = .checking ∧ t.setup.result = 0 ∧
        t.setup.cause = u.cause ∧ t.headRead .setup = some (addrOf 0xC0) ∧ t.wait 0 = true ∧
        t.windows = some { seatBase := w 0x00, seatSize := w 0x01, orderBase := w 0x02, spoolBase := w 0x03
                           voucherBase := w 0x04, logBase := w 0x05, logExp := w 0x06 } ∧
        (∀ n, (t.lane n).role = (if role n = 1 then .kiosk else if role n = 2 then .counter else .none)) ∧
        t.hold.duration = w 0x07 ∧ t.hold.warnLead = (if w 0x08 = 0 then 10 else 30) ∧
        (∀ n : Lane, t.hold.quota[n] = w (0x0C + n.val)) ∧
        t.tender.timeout = w 0x09 ∧ t.tender.counter = BitVec.ofNat 8 (w 0x15) ∧
        t.print.serial = BitVec.ofNat 32 (w 0x16 * 65536 + w 0x17) ∧ t.print.exhausted = false ∧
        (∀ n : Lane, (t.print.preferred[n]).val = w 0x0B / 2 ^ n.val % 2) ∧
        t.log.capacity = 2 ^ w 0x06 ∧
        t.setup.tagSeed = BitVec.ofNat 16 (w 0x14) ∧ t.setup.keep = (w 0x18 == 1) ∧
        queueFind t.queue (addrOf 0x20) = some (partStateWord .checking u.cause) ∧
        queueFind t.queue (addrOf 0x21) = some 0 ∧ queueFind t.queue a = some wordAccept)) ∧
  (∀ (s : State) (a : Addr), let p := s.part
    p.offers 0 a wordAccept .headerClose .setup → p.accepted = true → (p.lane 0).lapsed = false →
    ∃ t, exec (.accept 0) s = .next { s with part := t } ∧ p.Refuses t 0 a .busy)

/-- WITHDRAW by an ACTIVE lane 0 (R172, R178), the setup controller and order unit being free. In SWEEPING it is
refused BUSY; so it is in RUNNING with a sweep in progress or waiting, because a show is OPENING (one whose request is
still to be handed on counts, log 22), or with a slot TENDERING, APPROVED or PRINTING. Otherwise the part is
TRANSPARENT with reset cause WITHDRAW, every slot is EMPTY, the payment queue is empty, the clock is stopped with its
counts, and the rotation order is the first; foyer memory and the queued entries stay. With every block free and room
for the two words, every block has the values of R168 and the write completes: among them the price copy, the tender
link's counter, timeout, quiet count and mark, the preferred and last served printers, the lanes' roles, watches and
quiet marks, and the capture. A transaction goes on, a live result or abandon being answered CLOSED (R111). A
redemption that still waits for its log entry is undecided again, to be passed (R52); that this counts as not decided
is the model's reading (log 43). While a poll is in progress the printer sides keep their values until the printer
answers; the answer is discarded, and the sides, no decision of the print engine being in progress, have their reset
values then (R134). -/
def Obligations.Withdraw : Prop :=
  (∀ (s : State) (a : Addr), let p := s.part
    let l := p.tender
    let sweeps : Prop := p.sweep.current ≠ none ∨ p.sweep.requests ≠ [] ∨ ∃ sh, (p.showAt sh).state = .opening
    p.offers 0 a wordWithdraw .headerClose .setup → p.accepted = true → (p.lane 0).lapsed = false →
    (p.mode = .sweeping ∨ sweeps →
      ∃ t, exec (.withdraw 0) s = .next { s with part := t } ∧ p.Refuses t 0 a .busy) ∧
    (p.mode = .running → ¬sweeps → p.busy .order = false →
      ((∃ sl, (p.slot sl).state = .tendering ∨ (p.slot sl).state = .approved ∨ (p.slot sl).state = .printing) →
        ∃ t, exec (.withdraw 0) s = .next { s with part := t } ∧
          t = { p.afterWrite 0 with lanes := t.lanes, work := t.work } ∧
          (t.task (.lane 0)).acts = (p.task (.lane 0)).acts ++ [.refusal 0 a .busy]) ∧
      ((∀ sl, (p.slot sl).state ≠ .tendering ∧ (p.slot sl).state ≠ .approved ∧ (p.slot sl).state ≠ .printing) →
        ∃ t, exec (.withdraw 0) s = .next { s with part := t } ∧ t.mode = .transparent ∧
          t.setup.cause = .withdraw ∧ (∀ sl, t.slot sl = Shadow.initial) ∧ t.order.payQueue = [] ∧
          (p.busy .clock = false → t.clock = { p.clock with started := false, pendingDay := none }) ∧
          t.rotation = rotationInitial ∧
          t.tender.requests = [] ∧ (∀ e ∈ p.queue.map (·.1), e ∈ t.queue.map (·.1)) ∧
          (∀ n i m b v, p.task .directory = ⟨[.redeemLog n i m], true⟩ → 0x160 ≤ b.toNat →
            (p.lane n).access = some ⟨b, some v, true, false⟩ →
            (t.lane n).access = some ⟨b, some v, false, false⟩ ∧ t.directory = Directory.initial) ∧
          (p.idle → p.room 2 →
            (t.lane 0).access = none ∧
            t = { Part.initial .withdraw with
              resetLow := p.resetLow, lanes := t.lanes, queue := t.queue, work := t.work
              clock := { p.clock with started := false, pendingDay := none }
              tender := t.tender, print := t.print
              setup := { Setup.initial .withdraw with result := p.setup.result } } ∧
            (∀ k : Fin 24, t.order.prices[k] = 0) ∧ t.setup.cursor = 0 ∧ (∀ k : Fin 31, t.setup.header[k] = none) ∧
            (∀ n, t.lane n = {
              role := .none, lapsed := false, quiet := false, watch := ⟨false, false, 0, 0⟩, releaseDue := false
              teardownDue := false, access := (t.lane n).access, dout := (t.lane n).dout }) ∧
            t.tender = {
              counter := 0, timeout := 0, requests := [], handed := false, quiet := 0, quietRaised := false
              examine := false, sent := l.sent, lastRejected := l.requests.any fun r => !r.kind.isFetch
              shift := if (l.requests.any fun r => r.live && !r.kind.isFetch) = true then
                  l.shift.map fun x => { x with delivery := .decided .closed } else l.shift } ∧
            t.print = {
              serial := 0, exhausted := false, queues := Vector.replicate 2 [], preferred := Vector.replicate 6 0
              sides := t.print.sides, reader := [], lastServed := 1, sent := p.print.sent
              exchange := p.print.exchange.map fun x => { x with discard := true } } ∧
            ∀ d, t.sideAt d = if p.print.exchange = none then Side.initial else p.sideAt d)))) ∧
  (∀ (s : State) (d : Printer) (b : Byte), let p := s.part
    p.calm → p.print.exchange = some ⟨d, .status, true⟩ → p.busy .print = false → (∀ e, p.busy (.side e) = false) →
    exec (.statusBlock d (some b)) s = .next { s with part := { p with print := { p.print with
      exchange := none, sides := Vector.replicate 2 Side.initial } } })

/-- The rest of an acceptance (R174 to R176) and its directory work (R148 to R150). The prices are read in turn into
the order unit's copy; after the last the log is cleared and the SETUP_ACCEPTED entry written (at the clock's counts,
log 30). As drains make room, slot by slot the EMPTY status words are placed, then lane, attention and printer words,
the attention unit being cleared. A show record whose word 7 holds OPEN opens its show, as one of the header's, if its
checks pass, else leaves the form-fault mark; with no OPEN the show is VACANT (the words of a record are read in
ascending order, log 36). After show 15 the clock starts with the header's day and minute, and the part, its
state word being placed before (the model's choice, log 46), is SWEEPING with the header's shows as sweep requests and
the directory work asked for. VOUCHER_CLEAR sets every entry FREE, the free list ascending, and the tag generator to the seed, and places the FREE words, with an empty queue those of cells
0 to 3 at once. VOUCHER_REBUILD loads the generator; a later one reads the next cell word, from the queue or in the
sweep reader's grant, and the fourth word of a cell decides its entry: kept, if the cell is an ISSUED or REDEEMED one
that R149 keeps, else FREE, its FREE words placed unless it reads FREE or RETIRED; after cell 255 the free list is the
FREE entries in ascending order and the counts are written. ENTER_RUNNING: when the work and the sweeps of the
header's shows have ended, a SWEEPING part is RUNNING and SETUP_STATE is set for lane 0. -/
def Obligations.DirectoryWorkAndRunning : Prop :=
  (∀ s : State, let p := s.part
    p.freeFor .directory → p.accepted = true → p.setup.work = .asked false →
    ∃ t, exec .voucherClear s = .next { s with part := t } ∧
      t.directory = { entries := Vector.replicate 256 Voucher.initial, free := List.finRange 256
                      tagGen := p.setup.tagSeed } ∧
      t.setup = { p.setup with work := t.setup.work } ∧ t.setup.work ≠ .asked false ∧
      (p.clearFor 16 → ∀ (i : VoucherNo) (k : Fin 4), i.val < 4 →
        queueFind t.queue (p.voucherAddr i k) = some (if k = 2 then 0xFFFF else 0)) ∧
      t.order = p.order ∧ t.hold = p.hold ∧ t.shows = p.shows) ∧
  (∀ s : State, let p := s.part
    p.freeFor .directory → p.accepted = true → p.setup.work = .asked true →
    queueFind p.queue (p.voucherAddr 0 0) = none →
    ∃ t, exec .voucherRebuild s = .next { s with part := t } ∧
      t.directory = { p.directory with tagGen := p.setup.tagSeed } ∧
      t.setup = { p.setup with work := .running } ∧ t.headRead .directory = some (p.voucherAddr 0 0)) ∧
  (∀ (s : State) (i : VoucherNo) (w0 w1 w2 w3 : Word) (parts : Bool), let p := s.part
    let x := p.voucherAddr i 3
    p.waiters = [] ∨ p.waiters = [.directory] → p.accepted = true → p.setup.work = .running →
    p.headRead .setup = none → p.task .directory = ⟨[.rebuild i.val [w0, w1, w2]], parts⟩ →
    (queueFind p.queue x = some w3 ∨
      queueFind p.queue x = none ∧ p.firstAsker = some .sweepReader ∧ w3 = s.mem.read x.toNat) →
    (i.val < 255 → queueFind p.queue (p.voucherAddr ⟨(i.val + 1) % 256, Nat.mod_lt _ (by decide)⟩ 0) = none) →
    ∃ t, exec .voucherRebuild s = .next { s with part := t } ∧
      (∀ j, j ≠ i → t.voucher j = p.voucher j) ∧ t.directory.tagGen = p.directory.tagGen ∧
      (let sh : ShowNo := Fin.ofNat 16 (bits w0 8 4)
       let keep : Bool := p.setup.headerShows.contains sh && w1 != 0 && (bits w0 0 3 == 2 ||
         bits w0 0 3 == 3 && bits w3 15 1 == 1 && decide (bits w3 12 3 < 6) && decide (bits w3 0 11 < 1440))
       t.voucher i = (if keep then
           { state := if bits w0 0 3 = 2 then .issued else .redeemed, item := bits w0 4 4, showNo := sh
             slot := bits w2 11 5, tag := w1, expiry := (p.showAt sh).expiry
             redemption := if bits w0 0 3 = 2 then none else some (Fin.ofNat 6 (bits w3 12 3), bits w3 0 11) }
         else Voucher.initial) ∧
       (keep = true ∨ bits w0 0 3 = 0 ∨ bits w0 0 3 = 4 → i.val < 255 → t.queue = p.queue) ∧
       (keep = false → bits w0 0 3 ≠ 0 → bits w0 0 3 ≠ 4 → p.clearFor 4 → ∀ k : Fin 4,
         queueFind t.queue (p.voucherAddr i k) = some (if k = 2 then 0xFFFF else 0))) ∧
      (i.val = 255 → p.room 8 → (∀ n, p.passedWrite n = none) →
        let count (st : VoucherState) : Option Word :=
          some (wordOf ((List.finRange 256).filter fun j => (t.voucher j).state == st).length)
        t.setup = { p.setup with work := .ended } ∧ t.busy .directory = false ∧
        t.directory.free = (List.finRange 256).filter (fun j => (t.voucher j).state == .free) ∧
        queueFind t.queue 0x27 = count .free ∧ queueFind t.queue 0x28 = count .reserved ∧
        queueFind t.queue 0x29 = count .issued ∧ queueFind t.queue 0x2A = count .redeemed)) ∧
  (∀ s : State, let p := s.part
    p.freeFor .setup → p.mode = .sweeping → p.setup.work = .ended → p.setup.sweepsLeft = [] →
    ∃ t, exec .enterRunning s = .next { s with part := t } ∧
      Part.Flagged { p with setup := { p.setup with part := .running } } t ∧
      (p.room 1 → p.busy .attention = false → Flag.setupState.isIn (t.att 0).flags = true)) ∧
  (∀ (s : State) (k : Fin 24) (rest : List Act), let p := s.part
    let x := addrOf (0xC0 + k.val)
    let prices := p.order.prices.set k (s.mem.read x.toNat)
    p.waiters = [] ∨ p.waiters = [.setup] → p.mode = .checking → p.firstAsker = some .sweepReader →
    queueFind p.queue x = none →
    (∀ h : k.val < 23, p.task .setup = ⟨.priceRead k.val :: rest, false⟩ →
      queueFind p.queue (addrOf (0xC1 + k.val)) = none →
      ∃ t, exec .portGrant s = .next { s with part := t } ∧
        t = { p with
          rotation := p.rotation.erase .sweepReader ++ [.sweepReader]
          order := { p.order with prices := prices }, work := t.work, waiters := [.setup] } ∧
        t.task .setup = ⟨.priceRead (k.val + 1) :: rest, false⟩) ∧
    (k.val = 23 → p.task .setup = ⟨.priceRead 23 :: .initLog :: .initSlots 0 :: rest, false⟩ → p.queue = [] →
      2 ≤ p.log.capacity → (∀ n, p.passedWrite n = none) →
      let log := p.base (·.logBase)
      let order := p.base (·.orderBase)
      0x160 ≤ log → log + 8 ≤ 0x40000 → log + 8 ≤ order + 16 ∨ order + 32 ≤ log → 0x160 ≤ order → order + 32 ≤ 0x40000 →
      ∃ t, exec .portGrant s = .next { s with part := t } ∧ t.order = { p.order with prices := prices } ∧
        t.log = { capacity := p.log.capacity, write := 1, take := 0, used := 1, reserved := 0 } ∧
        (∀ j : Fin 8, queueFind t.queue (addrOf (log + j.val)) = (Draft.words {
          kind := .setupAccepted, detail := p.setup.cause.code, lane := 0, slot := 31, showNo := 31, value := 0
          text := spaces } p.clock.minuteNo)[j.val]?) ∧
        queueFind t.queue 0x38 = some 1 ∧ queueFind t.queue 0x39 = some 0 ∧ queueFind t.queue 0x3A = some 1 ∧
        queueFind t.queue 0x3B = some 0 ∧
        ∀ j : Fin 4, queueFind t.queue (addrOf (order + 16 + j.val)) = some (statusWord Shadow.initial j.val))) ∧
  (∀ (s : State) (a : Addr) (v : Word) (q : List (Addr × Word)) (x : Addr) (w : Word) (next : Act) (rest : List Act),
    let p := s.part
    let place (e : Addr × Word) : Act := .place e.1 e.2
    p.waiters = [.setup] → p.mode = .checking → p.queue = (a, v) :: q → q.length = 15 → p.firstAsker = some .drain →
    (∀ n, p.passedWrite n = none) → x ∉ p.queue.map (·.1) → p.task .setup = ⟨.place x w :: next :: rest, false⟩ →
    (∀ k : SlotNo, next = .initSlots k.val → p.orderAddr k 16 ∉ x :: q.map (·.1) →
      ∃ m t, exec .updateDrain s = .next { s with mem := m, part := t } ∧ t.queue = q ++ [(x, w)] ∧
        t.task .setup = ⟨(List.range 16).map (fun j =>
            place (p.orderAddr k (16 + j), statusWord Shadow.initial j))
          ++ (if k.val < 23 then [.initSlots (k.val + 1)] else []) ++ rest, false⟩) ∧
    (next = .initLanes → laneAddr 0 8 ∉ x :: q.map (·.1) →
      ∃ m t, exec .updateDrain s = .next { s with mem := m, part := t } ∧ t.queue = q ++ [(x, w)] ∧
        (∀ n, t.att n = ⟨0, 0, 0, 0, none, false⟩) ∧
        ∃ words : List PartWord, t.task .setup = ⟨words.map .sync ++ rest, false⟩ ∧
          (∀ n, .laneState n ∈ words ∧ .earliest n 0 ∈ words ∧ .earliest n 1 ∈ words ∧ .earliest n 2 ∈ words ∧
            .flags n ∈ words ∧ .mask n ∈ words ∧ .cause n ∈ words ∧ .refusalHigh n ∈ words ∧ .refusalLow n ∈ words ∧
            .refusalReason n ∈ words ∧ .refusalCount n ∈ words) ∧
          ∀ d, .printer d true ∈ words ∧ .printer d false ∈ words)) ∧
  (∀ (s : State) (sh : ShowNo) (got : List Word) (rest : List Act), let p := s.part
    let x := showAddr sh 7
    let v := s.mem.read x.toNat
    let w (k : Fin 7) : Nat := (got.getD k.val 0).toNat
    let opens : Prop := v = 0x8001 ∨ v.toNat < 0x8000 ∧ v.toNat / 256 % 4 = 1
    let good : Prop := p.MayOpen sh w (p.setup.word 0x12 * 1440 + p.setup.word 0x13)
    let u := p.setup
    p.waiters = [] ∨ p.waiters = [.setup] → p.mode = .checking → p.firstAsker = some .sweepReader →
    queueFind p.queue x = none → got.length = 7 → p.task .setup = ⟨.showRead sh.val got :: rest, false⟩ →
    p.busy .attention = false → p.room 16 → (∀ n, p.passedWrite n = none) →
    (rest = [.clockStart, .place (addrOf 0x20) (partStateWord .sweeping u.cause), .enterSweeping, .finish 0] ∨
      sh.val < 15) →
    ∃ t shows, exec .portGrant s = .next { s with part := t } ∧
      (∀ o, o ≠ sh → t.showAt o = p.showAt o) ∧
      queueFind t.queue x = some (showStateWord (t.showAt sh)) ∧ t.order = p.order ∧ t.hold = p.hold ∧ t.log = p.log ∧
      (opens → good →
        t.showAt sh = {
          state := .opening, cursor := 7, cut := false, fault := false, last := .opened
          words := Vector.ofFn fun k => some (got.getD k.val 0)
          start := w 2 * 1440 + w 3, cutoff := w 2 * 1440 + w 3 - w 4, expiry := w 2 * 1440 + w 3 + w 5 } ∧
        shows = u.headerShows ++ [sh] ∧ ∀ n, Flag.showChange.isIn (t.att n).flags = true) ∧
      (opens → ¬good → t.showAt sh = { ShowEntry.initial with fault := true } ∧ shows = u.headerShows) ∧
      (¬opens → t.showAt sh = ShowEntry.initial ∧ shows = u.headerShows) ∧
      (sh.val < 15 → t.setup = { u with headerShows := shows } ∧ t.clock = p.clock ∧ t.sweep = p.sweep ∧
        t.headRead .setup = some (addrOf (0x40 + 8 * (sh.val + 1)))) ∧
      (sh.val = 15 →
        t.clock = { p.clock with
          day := BitVec.ofNat 16 (u.word 0x12), minute := u.word 0x13, second := 0, eighth := 0, run := 0
          started := true, pendingDay := none } ∧
        t.setup = { u with
          part := .sweeping, cursor := 0, header := Vector.replicate 31 none, headerShows := shows
          sweepsLeft := shows, work := .asked u.keep } ∧
        t.sweep = { p.sweep with requests := shows } ∧ (t.lane 0).access = none ∧
        queueFind t.queue 0x20 = some (partStateWord .sweeping u.cause)))
end

