-- ==== Sys2Proof/Laws/State.lean ====
section
/-! SUPPORT. What each update of the part leaves as it was, one lemma per field, and what it puts where. -/

namespace Sys2Proof.Laws

open Sys2Proof.Machine

/-! ### Vectors -/

theorem upd_get {α : Type} {n : Nat} (v : Vector α n) (i j : Fin n) (f : α → α) :
    (upd v i f)[j] = if j = i then f v[j] else v[j] := by
  show (Vector.set v i.val (f v[i]) i.isLt)[j.val] = _
  rw [Vector.getElem_set]
  by_cases h : j = i
  · subst h; simp
  · have : i.val ≠ j.val := fun e => h (Fin.ext e.symm)
    simp [h, this]

@[simp] theorem upd_same {α : Type} {n : Nat} (v : Vector α n) (i : Fin n) (f : α → α) :
    (upd v i f)[i] = f v[i] := by
  rw [upd_get, if_pos rfl]

theorem upd_other {α : Type} {n : Nat} (v : Vector α n) (i j : Fin n) (f : α → α) (h : j ≠ i) :
    (upd v i f)[j] = v[j] := by
  rw [upd_get, if_neg h]

/-! ### What an update leaves -/

@[simp] theorem setLane_resetLow (p : Part) (n : Lane) (f : LaneIf → LaneIf) : (p.setLane n f).resetLow = p.resetLow := rfl
@[simp] theorem setLane_windows (p : Part) (n : Lane) (f : LaneIf → LaneIf) : (p.setLane n f).windows = p.windows := rfl
@[simp] theorem setLane_rotation (p : Part) (n : Lane) (f : LaneIf → LaneIf) : (p.setLane n f).rotation = p.rotation := rfl
@[simp] theorem setLane_queue (p : Part) (n : Lane) (f : LaneIf → LaneIf) : (p.setLane n f).queue = p.queue := rfl
@[simp] theorem setLane_waiters (p : Part) (n : Lane) (f : LaneIf → LaneIf) : (p.setLane n f).waiters = p.waiters := rfl
@[simp] theorem setLane_work (p : Part) (n : Lane) (f : LaneIf → LaneIf) : (p.setLane n f).work = p.work := rfl
@[simp] theorem setLane_clock (p : Part) (n : Lane) (f : LaneIf → LaneIf) : (p.setLane n f).clock = p.clock := rfl
@[simp] theorem setLane_shows (p : Part) (n : Lane) (f : LaneIf → LaneIf) : (p.setLane n f).shows = p.shows := rfl
@[simp] theorem setLane_hold (p : Part) (n : Lane) (f : LaneIf → LaneIf) : (p.setLane n f).hold = p.hold := rfl
@[simp] theorem setLane_order (p : Part) (n : Lane) (f : LaneIf → LaneIf) : (p.setLane n f).order = p.order := rfl
@[simp] theorem setLane_tender (p : Part) (n : Lane) (f : LaneIf → LaneIf) : (p.setLane n f).tender = p.tender := rfl
@[simp] theorem setLane_print (p : Part) (n : Lane) (f : LaneIf → LaneIf) : (p.setLane n f).print = p.print := rfl
@[simp] theorem setLane_directory (p : Part) (n : Lane) (f : LaneIf → LaneIf) : (p.setLane n f).directory = p.directory := rfl
@[simp] theorem setLane_attention (p : Part) (n : Lane) (f : LaneIf → LaneIf) : (p.setLane n f).attention = p.attention := rfl
@[simp] theorem setLane_log (p : Part) (n : Lane) (f : LaneIf → LaneIf) : (p.setLane n f).log = p.log := rfl
@[simp] theorem setLane_setup (p : Part) (n : Lane) (f : LaneIf → LaneIf) : (p.setLane n f).setup = p.setup := rfl
@[simp] theorem setLane_sweep (p : Part) (n : Lane) (f : LaneIf → LaneIf) : (p.setLane n f).sweep = p.sweep := rfl

@[simp] theorem setShow_resetLow (p : Part) (sh : ShowNo) (f : ShowEntry → ShowEntry) : (p.setShow sh f).resetLow = p.resetLow := rfl
@[simp] theorem setShow_lanes (p : Part) (sh : ShowNo) (f : ShowEntry → ShowEntry) : (p.setShow sh f).lanes = p.lanes := rfl
@[simp] theorem setShow_windows (p : Part) (sh : ShowNo) (f : ShowEntry → ShowEntry) : (p.setShow sh f).windows = p.windows := rfl
@[simp] theorem setShow_rotation (p : Part) (sh : ShowNo) (f : ShowEntry → ShowEntry) : (p.setShow sh f).rotation = p.rotation := rfl
@[simp] theorem setShow_queue (p : Part) (sh : ShowNo) (f : ShowEntry → ShowEntry) : (p.setShow sh f).queue = p.queue := rfl
@[simp] theorem setShow_waiters (p : Part) (sh : ShowNo) (f : ShowEntry → ShowEntry) : (p.setShow sh f).waiters = p.waiters := rfl
@[simp] theorem setShow_work (p : Part) (sh : ShowNo) (f : ShowEntry → ShowEntry) : (p.setShow sh f).work = p.work := rfl
@[simp] theorem setShow_clock (p : Part) (sh : ShowNo) (f : ShowEntry → ShowEntry) : (p.setShow sh f).clock = p.clock := rfl
@[simp] theorem setShow_hold (p : Part) (sh : ShowNo) (f : ShowEntry → ShowEntry) : (p.setShow sh f).hold = p.hold := rfl
@[simp] theorem setShow_order (p : Part) (sh : ShowNo) (f : ShowEntry → ShowEntry) : (p.setShow sh f).order = p.order := rfl
@[simp] theorem setShow_tender (p : Part) (sh : ShowNo) (f : ShowEntry → ShowEntry) : (p.setShow sh f).tender = p.tender := rfl
@[simp] theorem setShow_print (p : Part) (sh : ShowNo) (f : ShowEntry → ShowEntry) : (p.setShow sh f).print = p.print := rfl
@[simp] theorem setShow_directory (p : Part) (sh : ShowNo) (f : ShowEntry → ShowEntry) : (p.setShow sh f).directory = p.directory := rfl
@[simp] theorem setShow_attention (p : Part) (sh : ShowNo) (f : ShowEntry → ShowEntry) : (p.setShow sh f).attention = p.attention := rfl
@[simp] theorem setShow_log (p : Part) (sh : ShowNo) (f : ShowEntry → ShowEntry) : (p.setShow sh f).log = p.log := rfl
@[simp] theorem setShow_setup (p : Part) (sh : ShowNo) (f : ShowEntry → ShowEntry) : (p.setShow sh f).setup = p.setup := rfl
@[simp] theorem setShow_sweep (p : Part) (sh : ShowNo) (f : ShowEntry → ShowEntry) : (p.setShow sh f).sweep = p.sweep := rfl

@[simp] theorem setSlot_resetLow (p : Part) (sl : SlotNo) (f : Shadow → Shadow) : (p.setSlot sl f).resetLow = p.resetLow := rfl
@[simp] theorem setSlot_lanes (p : Part) (sl : SlotNo) (f : Shadow → Shadow) : (p.setSlot sl f).lanes = p.lanes := rfl
@[simp] theorem setSlot_windows (p : Part) (sl : SlotNo) (f : Shadow → Shadow) : (p.setSlot sl f).windows = p.windows := rfl
@[simp] theorem setSlot_rotation (p : Part) (sl : SlotNo) (f : Shadow → Shadow) : (p.setSlot sl f).rotation = p.rotation := rfl
@[simp] theorem setSlot_queue (p : Part) (sl : SlotNo) (f : Shadow → Shadow) : (p.setSlot sl f).queue = p.queue := rfl
@[simp] theorem setSlot_waiters (p : Part) (sl : SlotNo) (f : Shadow → Shadow) : (p.setSlot sl f).waiters = p.waiters := rfl
@[simp] theorem setSlot_work (p : Part) (sl : SlotNo) (f : Shadow → Shadow) : (p.setSlot sl f).work = p.work := rfl
@[simp] theorem setSlot_clock (p : Part) (sl : SlotNo) (f : Shadow → Shadow) : (p.setSlot sl f).clock = p.clock := rfl
@[simp] theorem setSlot_shows (p : Part) (sl : SlotNo) (f : Shadow → Shadow) : (p.setSlot sl f).shows = p.shows := rfl
@[simp] theorem setSlot_hold (p : Part) (sl : SlotNo) (f : Shadow → Shadow) : (p.setSlot sl f).hold = p.hold := rfl
@[simp] theorem setSlot_tender (p : Part) (sl : SlotNo) (f : Shadow → Shadow) : (p.setSlot sl f).tender = p.tender := rfl
@[simp] theorem setSlot_print (p : Part) (sl : SlotNo) (f : Shadow → Shadow) : (p.setSlot sl f).print = p.print := rfl
@[simp] theorem setSlot_directory (p : Part) (sl : SlotNo) (f : Shadow → Shadow) : (p.setSlot sl f).directory = p.directory := rfl
@[simp] theorem setSlot_attention (p : Part) (sl : SlotNo) (f : Shadow → Shadow) : (p.setSlot sl f).attention = p.attention := rfl
@[simp] theorem setSlot_log (p : Part) (sl : SlotNo) (f : Shadow → Shadow) : (p.setSlot sl f).log = p.log := rfl
@[simp] theorem setSlot_setup (p : Part) (sl : SlotNo) (f : Shadow → Shadow) : (p.setSlot sl f).setup = p.setup := rfl
@[simp] theorem setSlot_sweep (p : Part) (sl : SlotNo) (f : Shadow → Shadow) : (p.setSlot sl f).sweep = p.sweep := rfl

@[simp] theorem setSide_resetLow (p : Part) (d : Printer) (f : Side → Side) : (p.setSide d f).resetLow = p.resetLow := rfl
@[simp] theorem setSide_lanes (p : Part) (d : Printer) (f : Side → Side) : (p.setSide d f).lanes = p.lanes := rfl
@[simp] theorem setSide_windows (p : Part) (d : Printer) (f : Side → Side) : (p.setSide d f).windows = p.windows := rfl
@[simp] theorem setSide_rotation (p : Part) (d : Printer) (f : Side → Side) : (p.setSide d f).rotation = p.rotation := rfl
@[simp] theorem setSide_queue (p : Part) (d : Printer) (f : Side → Side) : (p.setSide d f).queue = p.queue := rfl
@[simp] theorem setSide_waiters (p : Part) (d : Printer) (f : Side → Side) : (p.setSide d f).waiters = p.waiters := rfl
@[simp] theorem setSide_work (p : Part) (d : Printer) (f : Side → Side) : (p.setSide d f).work = p.work := rfl
@[simp] theorem setSide_clock (p : Part) (d : Printer) (f : Side → Side) : (p.setSide d f).clock = p.clock := rfl
@[simp] theorem setSide_shows (p : Part) (d : Printer) (f : Side → Side) : (p.setSide d f).shows = p.shows := rfl
@[simp] theorem setSide_hold (p : Part) (d : Printer) (f : Side → Side) : (p.setSide d f).hold = p.hold := rfl
@[simp] theorem setSide_order (p : Part) (d : Printer) (f : Side → Side) : (p.setSide d f).order = p.order := rfl
@[simp] theorem setSide_tender (p : Part) (d : Printer) (f : Side → Side) : (p.setSide d f).tender = p.tender := rfl
@[simp] theorem setSide_directory (p : Part) (d : Printer) (f : Side → Side) : (p.setSide d f).directory = p.directory := rfl
@[simp] theorem setSide_attention (p : Part) (d : Printer) (f : Side → Side) : (p.setSide d f).attention = p.attention := rfl
@[simp] theorem setSide_log (p : Part) (d : Printer) (f : Side → Side) : (p.setSide d f).log = p.log := rfl
@[simp] theorem setSide_setup (p : Part) (d : Printer) (f : Side → Side) : (p.setSide d f).setup = p.setup := rfl
@[simp] theorem setSide_sweep (p : Part) (d : Printer) (f : Side → Side) : (p.setSide d f).sweep = p.sweep := rfl

@[simp] theorem setPrintQueue_resetLow (p : Part) (d : Printer) (f : List SlotNo → List SlotNo) : (p.setPrintQueue d f).resetLow = p.resetLow := rfl
@[simp] theorem setPrintQueue_lanes (p : Part) (d : Printer) (f : List SlotNo → List SlotNo) : (p.setPrintQueue d f).lanes = p.lanes := rfl
@[simp] theorem setPrintQueue_windows (p : Part) (d : Printer) (f : List SlotNo → List SlotNo) : (p.setPrintQueue d f).windows = p.windows := rfl
@[simp] theorem setPrintQueue_rotation (p : Part) (d : Printer) (f : List SlotNo → List SlotNo) : (p.setPrintQueue d f).rotation = p.rotation := rfl
@[simp] theorem setPrintQueue_queue (p : Part) (d : Printer) (f : List SlotNo → List SlotNo) : (p.setPrintQueue d f).queue = p.queue := rfl
@[simp] theorem setPrintQueue_waiters (p : Part) (d : Printer) (f : List SlotNo → List SlotNo) : (p.setPrintQueue d f).waiters = p.waiters := rfl
@[simp] theorem setPrintQueue_work (p : Part) (d : Printer) (f : List SlotNo → List SlotNo) : (p.setPrintQueue d f).work = p.work := rfl
@[simp] theorem setPrintQueue_clock (p : Part) (d : Printer) (f : List SlotNo → List SlotNo) : (p.setPrintQueue d f).clock = p.clock := rfl
@[simp] theorem setPrintQueue_shows (p : Part) (d : Printer) (f : List SlotNo → List SlotNo) : (p.setPrintQueue d f).shows = p.shows := rfl
@[simp] theorem setPrintQueue_hold (p : Part) (d : Printer) (f : List SlotNo → List SlotNo) : (p.setPrintQueue d f).hold = p.hold := rfl
@[simp] theorem setPrintQueue_order (p : Part) (d : Printer) (f : List SlotNo → List SlotNo) : (p.setPrintQueue d f).order = p.order := rfl
@[simp] theorem setPrintQueue_tender (p : Part) (d : Printer) (f : List SlotNo → List SlotNo) : (p.setPrintQueue d f).tender = p.tender := rfl
@[simp] theorem setPrintQueue_directory (p : Part) (d : Printer) (f : List SlotNo → List SlotNo) : (p.setPrintQueue d f).directory = p.directory := rfl
@[simp] theorem setPrintQueue_attention (p : Part) (d : Printer) (f : List SlotNo → List SlotNo) : (p.setPrintQueue d f).attention = p.attention := rfl
@[simp] theorem setPrintQueue_log (p : Part) (d : Printer) (f : List SlotNo → List SlotNo) : (p.setPrintQueue d f).log = p.log := rfl
@[simp] theorem setPrintQueue_setup (p : Part) (d : Printer) (f : List SlotNo → List SlotNo) : (p.setPrintQueue d f).setup = p.setup := rfl
@[simp] theorem setPrintQueue_sweep (p : Part) (d : Printer) (f : List SlotNo → List SlotNo) : (p.setPrintQueue d f).sweep = p.sweep := rfl

@[simp] theorem setVoucher_resetLow (p : Part) (i : VoucherNo) (f : Voucher → Voucher) : (p.setVoucher i f).resetLow = p.resetLow := rfl
@[simp] theorem setVoucher_lanes (p : Part) (i : VoucherNo) (f : Voucher → Voucher) : (p.setVoucher i f).lanes = p.lanes := rfl
@[simp] theorem setVoucher_windows (p : Part) (i : VoucherNo) (f : Voucher → Voucher) : (p.setVoucher i f).windows = p.windows := rfl
@[simp] theorem setVoucher_rotation (p : Part) (i : VoucherNo) (f : Voucher → Voucher) : (p.setVoucher i f).rotation = p.rotation := rfl
@[simp] theorem setVoucher_queue (p : Part) (i : VoucherNo) (f : Voucher → Voucher) : (p.setVoucher i f).queue = p.queue := rfl
@[simp] theorem setVoucher_waiters (p : Part) (i : VoucherNo) (f : Voucher → Voucher) : (p.setVoucher i f).waiters = p.waiters := rfl
@[simp] theorem setVoucher_work (p : Part) (i : VoucherNo) (f : Voucher → Voucher) : (p.setVoucher i f).work = p.work := rfl
@[simp] theorem setVoucher_clock (p : Part) (i : VoucherNo) (f : Voucher → Voucher) : (p.setVoucher i f).clock = p.clock := rfl
@[simp] theorem setVoucher_shows (p : Part) (i : VoucherNo) (f : Voucher → Voucher) : (p.setVoucher i f).shows = p.shows := rfl
@[simp] theorem setVoucher_hold (p : Part) (i : VoucherNo) (f : Voucher → Voucher) : (p.setVoucher i f).hold = p.hold := rfl
@[simp] theorem setVoucher_order (p : Part) (i : VoucherNo) (f : Voucher → Voucher) : (p.setVoucher i f).order = p.order := rfl
@[simp] theorem setVoucher_tender (p : Part) (i : VoucherNo) (f : Voucher → Voucher) : (p.setVoucher i f).tender = p.tender := rfl
@[simp] theorem setVoucher_print (p : Part) (i : VoucherNo) (f : Voucher → Voucher) : (p.setVoucher i f).print = p.print := rfl
@[simp] theorem setVoucher_attention (p : Part) (i : VoucherNo) (f : Voucher → Voucher) : (p.setVoucher i f).attention = p.attention := rfl
@[simp] theorem setVoucher_log (p : Part) (i : VoucherNo) (f : Voucher → Voucher) : (p.setVoucher i f).log = p.log := rfl
@[simp] theorem setVoucher_setup (p : Part) (i : VoucherNo) (f : Voucher → Voucher) : (p.setVoucher i f).setup = p.setup := rfl
@[simp] theorem setVoucher_sweep (p : Part) (i : VoucherNo) (f : Voucher → Voucher) : (p.setVoucher i f).sweep = p.sweep := rfl

@[simp] theorem setAtt_resetLow (p : Part) (n : Lane) (f : Attention → Attention) : (p.setAtt n f).resetLow = p.resetLow := rfl
@[simp] theorem setAtt_lanes (p : Part) (n : Lane) (f : Attention → Attention) : (p.setAtt n f).lanes = p.lanes := rfl
@[simp] theorem setAtt_windows (p : Part) (n : Lane) (f : Attention → Attention) : (p.setAtt n f).windows = p.windows := rfl
@[simp] theorem setAtt_rotation (p : Part) (n : Lane) (f : Attention → Attention) : (p.setAtt n f).rotation = p.rotation := rfl
@[simp] theorem setAtt_queue (p : Part) (n : Lane) (f : Attention → Attention) : (p.setAtt n f).queue = p.queue := rfl
@[simp] theorem setAtt_waiters (p : Part) (n : Lane) (f : Attention → Attention) : (p.setAtt n f).waiters = p.waiters := rfl
@[simp] theorem setAtt_work (p : Part) (n : Lane) (f : Attention → Attention) : (p.setAtt n f).work = p.work := rfl
@[simp] theorem setAtt_clock (p : Part) (n : Lane) (f : Attention → Attention) : (p.setAtt n f).clock = p.clock := rfl
@[simp] theorem setAtt_shows (p : Part) (n : Lane) (f : Attention → Attention) : (p.setAtt n f).shows = p.shows := rfl
@[simp] theorem setAtt_hold (p : Part) (n : Lane) (f : Attention → Attention) : (p.setAtt n f).hold = p.hold := rfl
@[simp] theorem setAtt_order (p : Part) (n : Lane) (f : Attention → Attention) : (p.setAtt n f).order = p.order := rfl
@[simp] theorem setAtt_tender (p : Part) (n : Lane) (f : Attention → Attention) : (p.setAtt n f).tender = p.tender := rfl
@[simp] theorem setAtt_print (p : Part) (n : Lane) (f : Attention → Attention) : (p.setAtt n f).print = p.print := rfl
@[simp] theorem setAtt_directory (p : Part) (n : Lane) (f : Attention → Attention) : (p.setAtt n f).directory = p.directory := rfl
@[simp] theorem setAtt_log (p : Part) (n : Lane) (f : Attention → Attention) : (p.setAtt n f).log = p.log := rfl
@[simp] theorem setAtt_setup (p : Part) (n : Lane) (f : Attention → Attention) : (p.setAtt n f).setup = p.setup := rfl
@[simp] theorem setAtt_sweep (p : Part) (n : Lane) (f : Attention → Attention) : (p.setAtt n f).sweep = p.sweep := rfl

@[simp] theorem setTask_resetLow (p : Part) (b : Block) (t : Task) : (p.setTask b t).resetLow = p.resetLow := rfl
@[simp] theorem setTask_lanes (p : Part) (b : Block) (t : Task) : (p.setTask b t).lanes = p.lanes := rfl
@[simp] theorem setTask_windows (p : Part) (b : Block) (t : Task) : (p.setTask b t).windows = p.windows := rfl
@[simp] theorem setTask_rotation (p : Part) (b : Block) (t : Task) : (p.setTask b t).rotation = p.rotation := rfl
@[simp] theorem setTask_queue (p : Part) (b : Block) (t : Task) : (p.setTask b t).queue = p.queue := rfl
@[simp] theorem setTask_waiters (p : Part) (b : Block) (t : Task) : (p.setTask b t).waiters = p.waiters := rfl
@[simp] theorem setTask_clock (p : Part) (b : Block) (t : Task) : (p.setTask b t).clock = p.clock := rfl
@[simp] theorem setTask_shows (p : Part) (b : Block) (t : Task) : (p.setTask b t).shows = p.shows := rfl
@[simp] theorem setTask_hold (p : Part) (b : Block) (t : Task) : (p.setTask b t).hold = p.hold := rfl
@[simp] theorem setTask_order (p : Part) (b : Block) (t : Task) : (p.setTask b t).order = p.order := rfl
@[simp] theorem setTask_tender (p : Part) (b : Block) (t : Task) : (p.setTask b t).tender = p.tender := rfl
@[simp] theorem setTask_print (p : Part) (b : Block) (t : Task) : (p.setTask b t).print = p.print := rfl
@[simp] theorem setTask_directory (p : Part) (b : Block) (t : Task) : (p.setTask b t).directory = p.directory := rfl
@[simp] theorem setTask_attention (p : Part) (b : Block) (t : Task) : (p.setTask b t).attention = p.attention := rfl
@[simp] theorem setTask_log (p : Part) (b : Block) (t : Task) : (p.setTask b t).log = p.log := rfl
@[simp] theorem setTask_setup (p : Part) (b : Block) (t : Task) : (p.setTask b t).setup = p.setup := rfl
@[simp] theorem setTask_sweep (p : Part) (b : Block) (t : Task) : (p.setTask b t).sweep = p.sweep := rfl

@[simp] theorem post_resetLow (p : Part) (b : Block) (acts : List Act) : (p.post b acts).resetLow = p.resetLow := rfl
@[simp] theorem post_lanes (p : Part) (b : Block) (acts : List Act) : (p.post b acts).lanes = p.lanes := rfl
@[simp] theorem post_windows (p : Part) (b : Block) (acts : List Act) : (p.post b acts).windows = p.windows := rfl
@[simp] theorem post_rotation (p : Part) (b : Block) (acts : List Act) : (p.post b acts).rotation = p.rotation := rfl
@[simp] theorem post_queue (p : Part) (b : Block) (acts : List Act) : (p.post b acts).queue = p.queue := rfl
@[simp] theorem post_waiters (p : Part) (b : Block) (acts : List Act) : (p.post b acts).waiters = p.waiters := rfl
@[simp] theorem post_clock (p : Part) (b : Block) (acts : List Act) : (p.post b acts).clock = p.clock := rfl
@[simp] theorem post_shows (p : Part) (b : Block) (acts : List Act) : (p.post b acts).shows = p.shows := rfl
@[simp] theorem post_hold (p : Part) (b : Block) (acts : List Act) : (p.post b acts).hold = p.hold := rfl
@[simp] theorem post_order (p : Part) (b : Block) (acts : List Act) : (p.post b acts).order = p.order := rfl
@[simp] theorem post_tender (p : Part) (b : Block) (acts : List Act) : (p.post b acts).tender = p.tender := rfl
@[simp] theorem post_print (p : Part) (b : Block) (acts : List Act) : (p.post b acts).print = p.print := rfl
@[simp] theorem post_directory (p : Part) (b : Block) (acts : List Act) : (p.post b acts).directory = p.directory := rfl
@[simp] theorem post_attention (p : Part) (b : Block) (acts : List Act) : (p.post b acts).attention = p.attention := rfl
@[simp] theorem post_log (p : Part) (b : Block) (acts : List Act) : (p.post b acts).log = p.log := rfl
@[simp] theorem post_setup (p : Part) (b : Block) (acts : List Act) : (p.post b acts).setup = p.setup := rfl
@[simp] theorem post_sweep (p : Part) (b : Block) (acts : List Act) : (p.post b acts).sweep = p.sweep := rfl

@[simp] theorem startAt_resetLow (p : Part) (b : Block) (pace : Pace) (acts : List Act) : (p.startAt b pace acts).resetLow = p.resetLow := rfl
@[simp] theorem startAt_lanes (p : Part) (b : Block) (pace : Pace) (acts : List Act) : (p.startAt b pace acts).lanes = p.lanes := rfl
@[simp] theorem startAt_windows (p : Part) (b : Block) (pace : Pace) (acts : List Act) : (p.startAt b pace acts).windows = p.windows := rfl
@[simp] theorem startAt_rotation (p : Part) (b : Block) (pace : Pace) (acts : List Act) : (p.startAt b pace acts).rotation = p.rotation := rfl
@[simp] theorem startAt_queue (p : Part) (b : Block) (pace : Pace) (acts : List Act) : (p.startAt b pace acts).queue = p.queue := rfl
@[simp] theorem startAt_waiters (p : Part) (b : Block) (pace : Pace) (acts : List Act) : (p.startAt b pace acts).waiters = p.waiters := rfl
@[simp] theorem startAt_clock (p : Part) (b : Block) (pace : Pace) (acts : List Act) : (p.startAt b pace acts).clock = p.clock := rfl
@[simp] theorem startAt_shows (p : Part) (b : Block) (pace : Pace) (acts : List Act) : (p.startAt b pace acts).shows = p.shows := rfl
@[simp] theorem startAt_hold (p : Part) (b : Block) (pace : Pace) (acts : List Act) : (p.startAt b pace acts).hold = p.hold := rfl
@[simp] theorem startAt_order (p : Part) (b : Block) (pace : Pace) (acts : List Act) : (p.startAt b pace acts).order = p.order := rfl
@[simp] theorem startAt_tender (p : Part) (b : Block) (pace : Pace) (acts : List Act) : (p.startAt b pace acts).tender = p.tender := rfl
@[simp] theorem startAt_print (p : Part) (b : Block) (pace : Pace) (acts : List Act) : (p.startAt b pace acts).print = p.print := rfl
@[simp] theorem startAt_directory (p : Part) (b : Block) (pace : Pace) (acts : List Act) : (p.startAt b pace acts).directory = p.directory := rfl
@[simp] theorem startAt_attention (p : Part) (b : Block) (pace : Pace) (acts : List Act) : (p.startAt b pace acts).attention = p.attention := rfl
@[simp] theorem startAt_log (p : Part) (b : Block) (pace : Pace) (acts : List Act) : (p.startAt b pace acts).log = p.log := rfl
@[simp] theorem startAt_setup (p : Part) (b : Block) (pace : Pace) (acts : List Act) : (p.startAt b pace acts).setup = p.setup := rfl
@[simp] theorem startAt_sweep (p : Part) (b : Block) (pace : Pace) (acts : List Act) : (p.startAt b pace acts).sweep = p.sweep := rfl

@[simp] theorem finish_resetLow (p : Part) (n : Lane) : (p.finish n).resetLow = p.resetLow := rfl
@[simp] theorem finish_windows (p : Part) (n : Lane) : (p.finish n).windows = p.windows := rfl
@[simp] theorem finish_rotation (p : Part) (n : Lane) : (p.finish n).rotation = p.rotation := rfl
@[simp] theorem finish_queue (p : Part) (n : Lane) : (p.finish n).queue = p.queue := rfl
@[simp] theorem finish_waiters (p : Part) (n : Lane) : (p.finish n).waiters = p.waiters := rfl
@[simp] theorem finish_work (p : Part) (n : Lane) : (p.finish n).work = p.work := rfl
@[simp] theorem finish_clock (p : Part) (n : Lane) : (p.finish n).clock = p.clock := rfl
@[simp] theorem finish_shows (p : Part) (n : Lane) : (p.finish n).shows = p.shows := rfl
@[simp] theorem finish_hold (p : Part) (n : Lane) : (p.finish n).hold = p.hold := rfl
@[simp] theorem finish_order (p : Part) (n : Lane) : (p.finish n).order = p.order := rfl
@[simp] theorem finish_tender (p : Part) (n : Lane) : (p.finish n).tender = p.tender := rfl
@[simp] theorem finish_print (p : Part) (n : Lane) : (p.finish n).print = p.print := rfl
@[simp] theorem finish_directory (p : Part) (n : Lane) : (p.finish n).directory = p.directory := rfl
@[simp] theorem finish_attention (p : Part) (n : Lane) : (p.finish n).attention = p.attention := rfl
@[simp] theorem finish_log (p : Part) (n : Lane) : (p.finish n).log = p.log := rfl
@[simp] theorem finish_setup (p : Part) (n : Lane) : (p.finish n).setup = p.setup := rfl
@[simp] theorem finish_sweep (p : Part) (n : Lane) : (p.finish n).sweep = p.sweep := rfl

@[simp] theorem finishRead_resetLow (p : Part) (n : Lane) (v : Word) : (p.finishRead n v).resetLow = p.resetLow := rfl
@[simp] theorem finishRead_windows (p : Part) (n : Lane) (v : Word) : (p.finishRead n v).windows = p.windows := rfl
@[simp] theorem finishRead_rotation (p : Part) (n : Lane) (v : Word) : (p.finishRead n v).rotation = p.rotation := rfl
@[simp] theorem finishRead_queue (p : Part) (n : Lane) (v : Word) : (p.finishRead n v).queue = p.queue := rfl
@[simp] theorem finishRead_waiters (p : Part) (n : Lane) (v : Word) : (p.finishRead n v).waiters = p.waiters := rfl
@[simp] theorem finishRead_work (p : Part) (n : Lane) (v : Word) : (p.finishRead n v).work = p.work := rfl
@[simp] theorem finishRead_clock (p : Part) (n : Lane) (v : Word) : (p.finishRead n v).clock = p.clock := rfl
@[simp] theorem finishRead_shows (p : Part) (n : Lane) (v : Word) : (p.finishRead n v).shows = p.shows := rfl
@[simp] theorem finishRead_hold (p : Part) (n : Lane) (v : Word) : (p.finishRead n v).hold = p.hold := rfl
@[simp] theorem finishRead_order (p : Part) (n : Lane) (v : Word) : (p.finishRead n v).order = p.order := rfl
@[simp] theorem finishRead_tender (p : Part) (n : Lane) (v : Word) : (p.finishRead n v).tender = p.tender := rfl
@[simp] theorem finishRead_print (p : Part) (n : Lane) (v : Word) : (p.finishRead n v).print = p.print := rfl
@[simp] theorem finishRead_directory (p : Part) (n : Lane) (v : Word) : (p.finishRead n v).directory = p.directory := rfl
@[simp] theorem finishRead_attention (p : Part) (n : Lane) (v : Word) : (p.finishRead n v).attention = p.attention := rfl
@[simp] theorem finishRead_log (p : Part) (n : Lane) (v : Word) : (p.finishRead n v).log = p.log := rfl
@[simp] theorem finishRead_setup (p : Part) (n : Lane) (v : Word) : (p.finishRead n v).setup = p.setup := rfl
@[simp] theorem finishRead_sweep (p : Part) (n : Lane) (v : Word) : (p.finishRead n v).sweep = p.sweep := rfl

@[simp] theorem setHolds_resetLow (p : Part) (hs : List Hold) : (p.setHolds hs).resetLow = p.resetLow := rfl
@[simp] theorem setHolds_lanes (p : Part) (hs : List Hold) : (p.setHolds hs).lanes = p.lanes := rfl
@[simp] theorem setHolds_windows (p : Part) (hs : List Hold) : (p.setHolds hs).windows = p.windows := rfl
@[simp] theorem setHolds_rotation (p : Part) (hs : List Hold) : (p.setHolds hs).rotation = p.rotation := rfl
@[simp] theorem setHolds_queue (p : Part) (hs : List Hold) : (p.setHolds hs).queue = p.queue := rfl
@[simp] theorem setHolds_waiters (p : Part) (hs : List Hold) : (p.setHolds hs).waiters = p.waiters := rfl
@[simp] theorem setHolds_work (p : Part) (hs : List Hold) : (p.setHolds hs).work = p.work := rfl
@[simp] theorem setHolds_clock (p : Part) (hs : List Hold) : (p.setHolds hs).clock = p.clock := rfl
@[simp] theorem setHolds_shows (p : Part) (hs : List Hold) : (p.setHolds hs).shows = p.shows := rfl
@[simp] theorem setHolds_order (p : Part) (hs : List Hold) : (p.setHolds hs).order = p.order := rfl
@[simp] theorem setHolds_tender (p : Part) (hs : List Hold) : (p.setHolds hs).tender = p.tender := rfl
@[simp] theorem setHolds_print (p : Part) (hs : List Hold) : (p.setHolds hs).print = p.print := rfl
@[simp] theorem setHolds_directory (p : Part) (hs : List Hold) : (p.setHolds hs).directory = p.directory := rfl
@[simp] theorem setHolds_attention (p : Part) (hs : List Hold) : (p.setHolds hs).attention = p.attention := rfl
@[simp] theorem setHolds_log (p : Part) (hs : List Hold) : (p.setHolds hs).log = p.log := rfl
@[simp] theorem setHolds_setup (p : Part) (hs : List Hold) : (p.setHolds hs).setup = p.setup := rfl
@[simp] theorem setHolds_sweep (p : Part) (hs : List Hold) : (p.setHolds hs).sweep = p.sweep := rfl

@[simp] theorem unwait_resetLow (p : Part) (b : Block) : (p.unwait b).resetLow = p.resetLow := rfl
@[simp] theorem unwait_lanes (p : Part) (b : Block) : (p.unwait b).lanes = p.lanes := rfl
@[simp] theorem unwait_windows (p : Part) (b : Block) : (p.unwait b).windows = p.windows := rfl
@[simp] theorem unwait_rotation (p : Part) (b : Block) : (p.unwait b).rotation = p.rotation := rfl
@[simp] theorem unwait_queue (p : Part) (b : Block) : (p.unwait b).queue = p.queue := rfl
@[simp] theorem unwait_work (p : Part) (b : Block) : (p.unwait b).work = p.work := rfl
@[simp] theorem unwait_clock (p : Part) (b : Block) : (p.unwait b).clock = p.clock := rfl
@[simp] theorem unwait_shows (p : Part) (b : Block) : (p.unwait b).shows = p.shows := rfl
@[simp] theorem unwait_hold (p : Part) (b : Block) : (p.unwait b).hold = p.hold := rfl
@[simp] theorem unwait_order (p : Part) (b : Block) : (p.unwait b).order = p.order := rfl
@[simp] theorem unwait_tender (p : Part) (b : Block) : (p.unwait b).tender = p.tender := rfl
@[simp] theorem unwait_print (p : Part) (b : Block) : (p.unwait b).print = p.print := rfl
@[simp] theorem unwait_directory (p : Part) (b : Block) : (p.unwait b).directory = p.directory := rfl
@[simp] theorem unwait_attention (p : Part) (b : Block) : (p.unwait b).attention = p.attention := rfl
@[simp] theorem unwait_log (p : Part) (b : Block) : (p.unwait b).log = p.log := rfl
@[simp] theorem unwait_setup (p : Part) (b : Block) : (p.unwait b).setup = p.setup := rfl
@[simp] theorem unwait_sweep (p : Part) (b : Block) : (p.unwait b).sweep = p.sweep := rfl

@[simp] theorem rotate_resetLow (p : Part) (r : Requester) : (p.rotate r).resetLow = p.resetLow := rfl
@[simp] theorem rotate_lanes (p : Part) (r : Requester) : (p.rotate r).lanes = p.lanes := rfl
@[simp] theorem rotate_windows (p : Part) (r : Requester) : (p.rotate r).windows = p.windows := rfl
@[simp] theorem rotate_queue (p : Part) (r : Requester) : (p.rotate r).queue = p.queue := rfl
@[simp] theorem rotate_waiters (p : Part) (r : Requester) : (p.rotate r).waiters = p.waiters := rfl
@[simp] theorem rotate_work (p : Part) (r : Requester) : (p.rotate r).work = p.work := rfl
@[simp] theorem rotate_clock (p : Part) (r : Requester) : (p.rotate r).clock = p.clock := rfl
@[simp] theorem rotate_shows (p : Part) (r : Requester) : (p.rotate r).shows = p.shows := rfl
@[simp] theorem rotate_hold (p : Part) (r : Requester) : (p.rotate r).hold = p.hold := rfl
@[simp] theorem rotate_order (p : Part) (r : Requester) : (p.rotate r).order = p.order := rfl
@[simp] theorem rotate_tender (p : Part) (r : Requester) : (p.rotate r).tender = p.tender := rfl
@[simp] theorem rotate_print (p : Part) (r : Requester) : (p.rotate r).print = p.print := rfl
@[simp] theorem rotate_directory (p : Part) (r : Requester) : (p.rotate r).directory = p.directory := rfl
@[simp] theorem rotate_attention (p : Part) (r : Requester) : (p.rotate r).attention = p.attention := rfl
@[simp] theorem rotate_log (p : Part) (r : Requester) : (p.rotate r).log = p.log := rfl
@[simp] theorem rotate_setup (p : Part) (r : Requester) : (p.rotate r).setup = p.setup := rfl
@[simp] theorem rotate_sweep (p : Part) (r : Requester) : (p.rotate r).sweep = p.sweep := rfl

@[simp] theorem endExchange_resetLow (p : Part) : (p.endExchange).resetLow = p.resetLow := rfl
@[simp] theorem endExchange_lanes (p : Part) : (p.endExchange).lanes = p.lanes := rfl
@[simp] theorem endExchange_windows (p : Part) : (p.endExchange).windows = p.windows := rfl
@[simp] theorem endExchange_rotation (p : Part) : (p.endExchange).rotation = p.rotation := rfl
@[simp] theorem endExchange_queue (p : Part) : (p.endExchange).queue = p.queue := rfl
@[simp] theorem endExchange_waiters (p : Part) : (p.endExchange).waiters = p.waiters := rfl
@[simp] theorem endExchange_work (p : Part) : (p.endExchange).work = p.work := rfl
@[simp] theorem endExchange_clock (p : Part) : (p.endExchange).clock = p.clock := rfl
@[simp] theorem endExchange_shows (p : Part) : (p.endExchange).shows = p.shows := rfl
@[simp] theorem endExchange_hold (p : Part) : (p.endExchange).hold = p.hold := rfl
@[simp] theorem endExchange_order (p : Part) : (p.endExchange).order = p.order := rfl
@[simp] theorem endExchange_tender (p : Part) : (p.endExchange).tender = p.tender := rfl
@[simp] theorem endExchange_directory (p : Part) : (p.endExchange).directory = p.directory := rfl
@[simp] theorem endExchange_attention (p : Part) : (p.endExchange).attention = p.attention := rfl
@[simp] theorem endExchange_log (p : Part) : (p.endExchange).log = p.log := rfl
@[simp] theorem endExchange_setup (p : Part) : (p.endExchange).setup = p.setup := rfl
@[simp] theorem endExchange_sweep (p : Part) : (p.endExchange).sweep = p.sweep := rfl

@[simp] theorem setPendingDay_resetLow (p : Part) (d : Option Word) : (p.setPendingDay d).resetLow = p.resetLow := rfl
@[simp] theorem setPendingDay_lanes (p : Part) (d : Option Word) : (p.setPendingDay d).lanes = p.lanes := rfl
@[simp] theorem setPendingDay_windows (p : Part) (d : Option Word) : (p.setPendingDay d).windows = p.windows := rfl
@[simp] theorem setPendingDay_rotation (p : Part) (d : Option Word) : (p.setPendingDay d).rotation = p.rotation := rfl
@[simp] theorem setPendingDay_queue (p : Part) (d : Option Word) : (p.setPendingDay d).queue = p.queue := rfl
@[simp] theorem setPendingDay_waiters (p : Part) (d : Option Word) : (p.setPendingDay d).waiters = p.waiters := rfl
@[simp] theorem setPendingDay_work (p : Part) (d : Option Word) : (p.setPendingDay d).work = p.work := rfl
@[simp] theorem setPendingDay_shows (p : Part) (d : Option Word) : (p.setPendingDay d).shows = p.shows := rfl
@[simp] theorem setPendingDay_hold (p : Part) (d : Option Word) : (p.setPendingDay d).hold = p.hold := rfl
@[simp] theorem setPendingDay_order (p : Part) (d : Option Word) : (p.setPendingDay d).order = p.order := rfl
@[simp] theorem setPendingDay_tender (p : Part) (d : Option Word) : (p.setPendingDay d).tender = p.tender := rfl
@[simp] theorem setPendingDay_print (p : Part) (d : Option Word) : (p.setPendingDay d).print = p.print := rfl
@[simp] theorem setPendingDay_directory (p : Part) (d : Option Word) : (p.setPendingDay d).directory = p.directory := rfl
@[simp] theorem setPendingDay_attention (p : Part) (d : Option Word) : (p.setPendingDay d).attention = p.attention := rfl
@[simp] theorem setPendingDay_log (p : Part) (d : Option Word) : (p.setPendingDay d).log = p.log := rfl
@[simp] theorem setPendingDay_setup (p : Part) (d : Option Word) : (p.setPendingDay d).setup = p.setup := rfl
@[simp] theorem setPendingDay_sweep (p : Part) (d : Option Word) : (p.setPendingDay d).sweep = p.sweep := rfl

@[simp] theorem commit_resetLow (p : Part) (sl : SlotNo) (t : Shadow) : (p.commit sl t).resetLow = p.resetLow := rfl
@[simp] theorem commit_lanes (p : Part) (sl : SlotNo) (t : Shadow) : (p.commit sl t).lanes = p.lanes := rfl
@[simp] theorem commit_windows (p : Part) (sl : SlotNo) (t : Shadow) : (p.commit sl t).windows = p.windows := rfl
@[simp] theorem commit_rotation (p : Part) (sl : SlotNo) (t : Shadow) : (p.commit sl t).rotation = p.rotation := rfl
@[simp] theorem commit_queue (p : Part) (sl : SlotNo) (t : Shadow) : (p.commit sl t).queue = p.queue := rfl
@[simp] theorem commit_waiters (p : Part) (sl : SlotNo) (t : Shadow) : (p.commit sl t).waiters = p.waiters := rfl
@[simp] theorem commit_work (p : Part) (sl : SlotNo) (t : Shadow) : (p.commit sl t).work = p.work := rfl
@[simp] theorem commit_clock (p : Part) (sl : SlotNo) (t : Shadow) : (p.commit sl t).clock = p.clock := rfl
@[simp] theorem commit_shows (p : Part) (sl : SlotNo) (t : Shadow) : (p.commit sl t).shows = p.shows := rfl
@[simp] theorem commit_hold (p : Part) (sl : SlotNo) (t : Shadow) : (p.commit sl t).hold = p.hold := rfl
@[simp] theorem commit_tender (p : Part) (sl : SlotNo) (t : Shadow) : (p.commit sl t).tender = p.tender := rfl
@[simp] theorem commit_print (p : Part) (sl : SlotNo) (t : Shadow) : (p.commit sl t).print = p.print := rfl
@[simp] theorem commit_directory (p : Part) (sl : SlotNo) (t : Shadow) : (p.commit sl t).directory = p.directory := rfl
@[simp] theorem commit_attention (p : Part) (sl : SlotNo) (t : Shadow) : (p.commit sl t).attention = p.attention := rfl
@[simp] theorem commit_log (p : Part) (sl : SlotNo) (t : Shadow) : (p.commit sl t).log = p.log := rfl
@[simp] theorem commit_setup (p : Part) (sl : SlotNo) (t : Shadow) : (p.commit sl t).setup = p.setup := rfl
@[simp] theorem commit_sweep (p : Part) (sl : SlotNo) (t : Shadow) : (p.commit sl t).sweep = p.sweep := rfl

@[simp] theorem waits_resetLow (p : Part) (b : Block) : (p.waits b).resetLow = p.resetLow := by unfold Part.waits; split <;> rfl
@[simp] theorem waits_lanes (p : Part) (b : Block) : (p.waits b).lanes = p.lanes := by unfold Part.waits; split <;> rfl
@[simp] theorem waits_windows (p : Part) (b : Block) : (p.waits b).windows = p.windows := by unfold Part.waits; split <;> rfl
@[simp] theorem waits_rotation (p : Part) (b : Block) : (p.waits b).rotation = p.rotation := by unfold Part.waits; split <;> rfl
@[simp] theorem waits_queue (p : Part) (b : Block) : (p.waits b).queue = p.queue := by unfold Part.waits; split <;> rfl
@[simp] theorem waits_work (p : Part) (b : Block) : (p.waits b).work = p.work := by unfold Part.waits; split <;> rfl
@[simp] theorem waits_clock (p : Part) (b : Block) : (p.waits b).clock = p.clock := by unfold Part.waits; split <;> rfl
@[simp] theorem waits_shows (p : Part) (b : Block) : (p.waits b).shows = p.shows := by unfold Part.waits; split <;> rfl
@[simp] theorem waits_hold (p : Part) (b : Block) : (p.waits b).hold = p.hold := by unfold Part.waits; split <;> rfl
@[simp] theorem waits_order (p : Part) (b : Block) : (p.waits b).order = p.order := by unfold Part.waits; split <;> rfl
@[simp] theorem waits_tender (p : Part) (b : Block) : (p.waits b).tender = p.tender := by unfold Part.waits; split <;> rfl
@[simp] theorem waits_print (p : Part) (b : Block) : (p.waits b).print = p.print := by unfold Part.waits; split <;> rfl
@[simp] theorem waits_directory (p : Part) (b : Block) : (p.waits b).directory = p.directory := by unfold Part.waits; split <;> rfl
@[simp] theorem waits_attention (p : Part) (b : Block) : (p.waits b).attention = p.attention := by unfold Part.waits; split <;> rfl
@[simp] theorem waits_log (p : Part) (b : Block) : (p.waits b).log = p.log := by unfold Part.waits; split <;> rfl
@[simp] theorem waits_setup (p : Part) (b : Block) : (p.waits b).setup = p.setup := by unfold Part.waits; split <;> rfl
@[simp] theorem waits_sweep (p : Part) (b : Block) : (p.waits b).sweep = p.sweep := by unfold Part.waits; split <;> rfl

@[simp] theorem markDecided_resetLow (p : Part) (n : Lane) : (p.markDecided n).resetLow = p.resetLow := by unfold Part.markDecided; dsimp only; split <;> rfl
@[simp] theorem markDecided_windows (p : Part) (n : Lane) : (p.markDecided n).windows = p.windows := by unfold Part.markDecided; dsimp only; split <;> rfl
@[simp] theorem markDecided_rotation (p : Part) (n : Lane) : (p.markDecided n).rotation = p.rotation := by unfold Part.markDecided; dsimp only; split <;> rfl
@[simp] theorem markDecided_queue (p : Part) (n : Lane) : (p.markDecided n).queue = p.queue := by unfold Part.markDecided; dsimp only; split <;> rfl
@[simp] theorem markDecided_waiters (p : Part) (n : Lane) : (p.markDecided n).waiters = p.waiters := by unfold Part.markDecided; dsimp only; split <;> rfl
@[simp] theorem markDecided_work (p : Part) (n : Lane) : (p.markDecided n).work = p.work := by unfold Part.markDecided; dsimp only; split <;> rfl
@[simp] theorem markDecided_shows (p : Part) (n : Lane) : (p.markDecided n).shows = p.shows := by unfold Part.markDecided; dsimp only; split <;> rfl
@[simp] theorem markDecided_hold (p : Part) (n : Lane) : (p.markDecided n).hold = p.hold := by unfold Part.markDecided; dsimp only; split <;> rfl
@[simp] theorem markDecided_order (p : Part) (n : Lane) : (p.markDecided n).order = p.order := by unfold Part.markDecided; dsimp only; split <;> rfl
@[simp] theorem markDecided_tender (p : Part) (n : Lane) : (p.markDecided n).tender = p.tender := by unfold Part.markDecided; dsimp only; split <;> rfl
@[simp] theorem markDecided_print (p : Part) (n : Lane) : (p.markDecided n).print = p.print := by unfold Part.markDecided; dsimp only; split <;> rfl
@[simp] theorem markDecided_directory (p : Part) (n : Lane) : (p.markDecided n).directory = p.directory := by unfold Part.markDecided; dsimp only; split <;> rfl
@[simp] theorem markDecided_attention (p : Part) (n : Lane) : (p.markDecided n).attention = p.attention := by unfold Part.markDecided; dsimp only; split <;> rfl
@[simp] theorem markDecided_log (p : Part) (n : Lane) : (p.markDecided n).log = p.log := by unfold Part.markDecided; dsimp only; split <;> rfl
@[simp] theorem markDecided_setup (p : Part) (n : Lane) : (p.markDecided n).setup = p.setup := by unfold Part.markDecided; dsimp only; split <;> rfl
@[simp] theorem markDecided_sweep (p : Part) (n : Lane) : (p.markDecided n).sweep = p.sweep := by unfold Part.markDecided; dsimp only; split <;> rfl

@[simp] theorem handRefusal_resetLow (p : Part) (n : Lane) (r : Reason) : (p.handRefusal n r).resetLow = p.resetLow := by unfold Part.handRefusal Part.markDecided; dsimp only; split <;> rfl
@[simp] theorem handRefusal_windows (p : Part) (n : Lane) (r : Reason) : (p.handRefusal n r).windows = p.windows := by unfold Part.handRefusal Part.markDecided; dsimp only; split <;> rfl
@[simp] theorem handRefusal_rotation (p : Part) (n : Lane) (r : Reason) : (p.handRefusal n r).rotation = p.rotation := by unfold Part.handRefusal Part.markDecided; dsimp only; split <;> rfl
@[simp] theorem handRefusal_queue (p : Part) (n : Lane) (r : Reason) : (p.handRefusal n r).queue = p.queue := by unfold Part.handRefusal Part.markDecided; dsimp only; split <;> rfl
@[simp] theorem handRefusal_waiters (p : Part) (n : Lane) (r : Reason) : (p.handRefusal n r).waiters = p.waiters := by unfold Part.handRefusal Part.markDecided; dsimp only; split <;> rfl
@[simp] theorem handRefusal_shows (p : Part) (n : Lane) (r : Reason) : (p.handRefusal n r).shows = p.shows := by unfold Part.handRefusal Part.markDecided; dsimp only; split <;> rfl
@[simp] theorem handRefusal_hold (p : Part) (n : Lane) (r : Reason) : (p.handRefusal n r).hold = p.hold := by unfold Part.handRefusal Part.markDecided; dsimp only; split <;> rfl
@[simp] theorem handRefusal_order (p : Part) (n : Lane) (r : Reason) : (p.handRefusal n r).order = p.order := by unfold Part.handRefusal Part.markDecided; dsimp only; split <;> rfl
@[simp] theorem handRefusal_tender (p : Part) (n : Lane) (r : Reason) : (p.handRefusal n r).tender = p.tender := by unfold Part.handRefusal Part.markDecided; dsimp only; split <;> rfl
@[simp] theorem handRefusal_print (p : Part) (n : Lane) (r : Reason) : (p.handRefusal n r).print = p.print := by unfold Part.handRefusal Part.markDecided; dsimp only; split <;> rfl
@[simp] theorem handRefusal_directory (p : Part) (n : Lane) (r : Reason) : (p.handRefusal n r).directory = p.directory := by unfold Part.handRefusal Part.markDecided; dsimp only; split <;> rfl
@[simp] theorem handRefusal_attention (p : Part) (n : Lane) (r : Reason) : (p.handRefusal n r).attention = p.attention := by unfold Part.handRefusal Part.markDecided; dsimp only; split <;> rfl
@[simp] theorem handRefusal_log (p : Part) (n : Lane) (r : Reason) : (p.handRefusal n r).log = p.log := by unfold Part.handRefusal Part.markDecided; dsimp only; split <;> rfl
@[simp] theorem handRefusal_setup (p : Part) (n : Lane) (r : Reason) : (p.handRefusal n r).setup = p.setup := by unfold Part.handRefusal Part.markDecided; dsimp only; split <;> rfl
@[simp] theorem handRefusal_sweep (p : Part) (n : Lane) (r : Reason) : (p.handRefusal n r).sweep = p.sweep := by unfold Part.handRefusal Part.markDecided; dsimp only; split <;> rfl

/-! ### Where an update puts what -/

theorem lane_setLane (p : Part) (n m : Lane) (f : LaneIf → LaneIf) :
    (p.setLane n f).lane m = if m = n then f (p.lane m) else p.lane m := upd_get ..
theorem showAt_setShow (p : Part) (i j : ShowNo) (f : ShowEntry → ShowEntry) :
    (p.setShow i f).showAt j = if j = i then f (p.showAt j) else p.showAt j := upd_get ..
theorem slot_setSlot (p : Part) (i j : SlotNo) (f : Shadow → Shadow) :
    (p.setSlot i f).slot j = if j = i then f (p.slot j) else p.slot j := upd_get ..
theorem sideAt_setSide (p : Part) (i j : Printer) (f : Side → Side) :
    (p.setSide i f).sideAt j = if j = i then f (p.sideAt j) else p.sideAt j := upd_get ..
theorem printQueue_setPrintQueue (p : Part) (i j : Printer) (f : List SlotNo → List SlotNo) :
    (p.setPrintQueue i f).printQueue j = if j = i then f (p.printQueue j) else p.printQueue j := upd_get ..
theorem voucher_setVoucher (p : Part) (i j : VoucherNo) (f : Voucher → Voucher) :
    (p.setVoucher i f).voucher j = if j = i then f (p.voucher j) else p.voucher j := upd_get ..
theorem att_setAtt (p : Part) (n m : Lane) (f : Attention → Attention) :
    (p.setAtt n f).att m = if m = n then f (p.att m) else p.att m := upd_get ..

theorem blockIx_inj {a b : Block} (h : blockIx a = blockIx b) : a = b := by
  cases a <;> cases b <;> simp only [blockIx] at h <;>
    first
    | rfl
    | (exfalso; revert h; decide)
    | (rename_i x y; revert h; revert x y; decide)
    | (rename_i x; revert h; revert x; decide)

theorem task_setTask (p : Part) (a b : Block) (t : Task) :
    (p.setTask a t).task b = if b = a then t else p.task b := by
  unfold Part.setTask Part.task
  rw [upd_get]
  by_cases h : b = a
  · subst h; simp
  · have : blockIx b ≠ blockIx a := fun e => h (blockIx_inj e)
    simp [h, this]

@[simp] theorem task_setTask_same (p : Part) (b : Block) (t : Task) : (p.setTask b t).task b = t := by
  simp [task_setTask]

/-- The task of a block depends on `work` alone. -/
theorem task_of_work {p q : Part} (h : q.work = p.work) (b : Block) : q.task b = p.task b := by
  unfold Part.task; rw [h]

end Sys2Proof.Laws
end

