-- ==== Sys2Proof/Laws/Engine.lean ====
section
/-! SUPPORT. What holds of a whole decision once it holds of each of its acts: the induction over `drive`, done
once for every class of acts and every relation between the part before and after. -/

namespace Sys2Proof.Laws

open Sys2Proof.Machine

/-- Every act left to block `b` is of the class. -/
def TaskIn (C : Act → Prop) (p : Part) (b : Block) : Prop := ∀ a ∈ (p.task b).acts, C a

/-- From `p` to `q` the relation holds, tasks of the class stay of the class, and a block that waits in `q` waited
in `p` or has only acts of the class left. -/
structure Goes (C : Act → Prop) (R : Part → Part → Prop) (p q : Part) : Prop where
  rel : R p q
  tasks : ∀ b, TaskIn C p b → TaskIn C q b
  waiters : ∀ b ∈ q.waiters, b ∈ p.waiters ∨ TaskIn C q b

/-- What must be known of one act for the induction over a decision: the class is closed under what acts give,
the relation is kept by each act, and neither looks at tasks and waiters. -/
structure Carries (C : Act → Prop) (R : Part → Part → Prop) : Prop where
  refl : ∀ p, R p p
  trans : ∀ p q r, R p q → R q r → R p r
  work : ∀ (p : Part) w ws, R p { p with work := w, waiters := ws }
  act : ∀ p a t, C a → take p a = some t → R p t.part
  tasks : ∀ p a t, C a → take p a = some t → ∀ b, TaskIn C p b → TaskIn C t.part b
  waiters : ∀ p a t, C a → take p a = some t → ∀ b ∈ t.part.waiters, b ∈ p.waiters ∨ TaskIn C t.part b
  acts : ∀ p a t, C a → take p a = some t → ∀ x ∈ t.acts, C x
  started : ∀ p a t b l, C a → take p a = some t → t.started = some (b, l) → ∀ x ∈ l, C x
  kicks : ∀ p a t, C a → take p a = some t → ∀ k ∈ t.kicks, ∀ q, TaskIn C q k

/-- The class of all acts: only the relation is left to show, for each act. -/
theorem carries_all {R : Part → Part → Prop} (refl : ∀ p, R p p) (trans : ∀ p q r, R p q → R q r → R p r)
    (work : ∀ (p : Part) w ws, R p { p with work := w, waiters := ws })
    (act : ∀ p a t, take p a = some t → R p t.part) : Carries (fun _ => True) R where
  refl := refl
  trans := trans
  work := work
  act p a t _ := act p a t
  tasks _ _ _ _ _ _ _ := fun _ _ => trivial
  waiters _ _ _ _ _ _ _ := .inr fun _ _ => trivial
  acts _ _ _ _ _ _ _ := trivial
  started _ _ _ _ _ _ _ _ _ _ := trivial
  kicks _ _ _ _ _ _ _ _ := fun _ _ => trivial

variable {C : Act → Prop} {R : Part → Part → Prop}

theorem goes_refl (h : Carries C R) (p : Part) : Goes C R p p :=
  ⟨h.refl p, fun _ x => x, fun _ x => .inl x⟩

theorem goes_trans (h : Carries C R) {p q r : Part} (a : Goes C R p q) (b : Goes C R q r) : Goes C R p r := by
  refine ⟨h.trans _ _ _ a.rel b.rel, fun x hx => b.tasks x (a.tasks x hx), fun x hx => ?_⟩
  rcases b.waiters x hx with hq | ht
  · rcases a.waiters x hq with hp | ht
    · exact .inl hp
    · exact .inr (b.tasks x ht)
  · exact .inr ht

theorem task_waits (p : Part) (b c : Block) : (p.waits b).task c = p.task c := task_of_work (waits_work p b) c

theorem waits_eq (p : Part) (b : Block) : ∃ ws, p.waits b = { p with waiters := ws } := by
  unfold Part.waits; split
  · exact ⟨p.waiters, rfl⟩
  · exact ⟨_, rfl⟩

theorem goes_waits (h : Carries C R) (p : Part) (b : Block) (hb : TaskIn C p b) : Goes C R p (p.waits b) := by
  refine ⟨?_, fun x hx => ?_, fun x hx => ?_⟩
  · obtain ⟨ws, e⟩ := waits_eq p b
    rw [e]; exact h.work p p.work ws
  · unfold TaskIn; rw [task_waits]; exact hx
  · unfold Part.waits at hx
    split at hx
    · exact .inl hx
    · rcases List.mem_append.1 hx with hx | hx
      · exact .inl hx
      · rw [List.mem_singleton] at hx
        subst hx
        right; unfold TaskIn; rw [task_waits]; exact hb

theorem goes_setTask (h : Carries C R) (p : Part) (b : Block) (t : Task) (ht : ∀ a ∈ t.acts, C a) :
    Goes C R p (p.setTask b t) := by
  refine ⟨h.work p _ p.waiters, fun x hx => ?_, fun x hx => .inl hx⟩
  unfold TaskIn; rw [task_setTask]
  split
  · exact ht
  · exact hx

theorem goes_foldl (h : Carries C R) (run : Block → Part → Part) (ks : List Block)
    (hr : ∀ k ∈ ks, ∀ p, Goes C R p (run k p)) (p : Part) :
    Goes C R p (ks.foldl (fun q k => run k q) p) := by
  induction ks generalizing p with
  | nil => exact goes_refl h p
  | cons k ks ih =>
    exact goes_trans h (hr k (by simp) p) (ih (fun k' hk => hr k' (by simp [hk])) _)

/-- One act of the class and what it starts. -/
theorem goes_carry (h : Carries C R) {p : Part} {a : Act} {t : Took} (ca : C a) (ht : take p a = some t)
    (b : Block) (parts : Bool) (hb : TaskIn C p b) (run : Block → Part → Part)
    (hr : ∀ k p, TaskIn C p k → Goes C R p (run k p)) : Goes C R p (t.carry b parts run) := by
  have h0 : Goes C R p t.part :=
    ⟨h.act p a t ca ht, h.tasks p a t ca ht, h.waiters p a t ca ht⟩
  have h1 : Goes C R p (t.part.setTask b ⟨t.acts ++ (t.part.task b).acts, parts⟩) := by
    refine goes_trans h h0 (goes_setTask h _ _ _ ?_)
    intro x hx
    rcases List.mem_append.1 hx with hx | hx
    · exact h.acts p a t ca ht x hx
    · exact h.tasks p a t ca ht b hb x hx
  unfold Took.carry
  refine goes_trans h ?_ (goes_foldl h run t.kicks
    (fun k hk q => hr k q (h.kicks p a t ca ht k hk q)) _)
  split
  · exact h1
  · rename_i target acts hs
    have hc := h.started p a t target acts ca ht hs
    refine goes_trans h h1 (goes_trans h (goes_setTask h _ target ⟨acts, parts⟩ hc) (hr _ _ ?_))
    unfold TaskIn; rw [task_setTask_same]; exact hc

/-- A decision of acts of the class, as far as it goes. -/
theorem goes_drive (h : Carries C R) (n : Nat) (b : Block) (p : Part) (hb : TaskIn C p b) :
    Goes C R p (drive n b p) := by
  induction n generalizing b p with
  | zero =>
    unfold drive
    split
    · exact goes_waits h p b hb
    · exact goes_refl h p
  | succ n ih =>
    unfold drive
    split
    · exact goes_refl h p
    · rename_i a rest parts ht
      have hall : ∀ x ∈ (a :: rest), C x := by
        intro x hx; apply hb; rw [ht]; exact hx
      split
      · exact goes_refl h p
      · split
        · exact goes_waits h p b hb
        · rename_i t hk
          have hrest : TaskIn C (p.setTask b ⟨rest, parts⟩) b := by
            unfold TaskIn; rw [task_setTask_same]; exact fun x hx => hall x (by simp [hx])
          have h1 : Goes C R p (p.setTask b ⟨rest, parts⟩) :=
            goes_setTask h _ _ _ (fun x hx => hall x (by simp [hx]))
          have ca := hall a (by simp)
          have h2 := goes_carry h ca hk b parts hrest (drive n) (fun k q hq => ih k q hq)
          have h3 := goes_trans h h1 h2
          exact goes_trans h h3 (ih b _ (h3.tasks b hb))

theorem goes_run (h : Carries C R) (b : Block) (p : Part) (hb : TaskIn C p b) : Goes C R p (run b p) :=
  goes_drive h _ b p hb

/-- A free block takes a request whose acts are of the class. -/
theorem goes_decideAt (h : Carries C R) (b : Block) (pace : Pace) (p : Part) (acts : List Act)
    (ha : ∀ a ∈ acts, C a) : Goes C R p (decideAt b pace (p, acts)) := by
  have h1 : Goes C R p (p.startAt b pace acts) := goes_setTask h _ _ _ ha
  refine goes_trans h h1 (goes_run h b _ ?_)
  unfold TaskIn Part.startAt; rw [task_setTask_same]; exact ha

theorem goes_decideNow (h : Carries C R) (b : Block) (p : Part) (acts : List Act) (ha : ∀ a ∈ acts, C a) :
    Goes C R p (decideNow b (p, acts)) := goes_decideAt h b .whole p acts ha

theorem goes_post (h : Carries C R) (b : Block) (acts : List Act) (p : Part) (ha : ∀ a ∈ acts, C a)
    (hb : TaskIn C p b) : Goes C R p (p.post b acts) := by
  refine goes_setTask h _ _ _ ?_
  intro x hx
  rcases List.mem_append.1 hx with hx | hx
  · exact hb x hx
  · exact ha x hx

/-- A block is handed acts of the class. -/
theorem goes_hand (h : Carries C R) (b : Block) (acts : List Act) (p : Part) (ha : ∀ a ∈ acts, C a)
    (hb : TaskIn C p b) : Goes C R p (hand b acts p) := by
  unfold hand
  split
  · exact goes_refl h p
  · have h1 := goes_post h b acts p ha hb
    exact goes_trans h h1 (goes_run h b _ (h1.tasks b hb))

theorem goes_unwait (h : Carries C R) (b : Block) (p : Part) : Goes C R p (p.unwait b) :=
  ⟨h.work p p.work _, fun _ hx => hx, fun _ hx => .inl (List.mem_of_mem_erase hx)⟩

theorem goes_wake (h : Carries C R) (b : Block) (p : Part) (hb : TaskIn C p b) : Goes C R p (wake p b) := by
  unfold wake
  split
  · exact goes_unwait h b p
  · split
    · exact goes_trans h (goes_unwait h b p) (goes_run h b _ hb)
    · exact goes_refl h p

theorem goes_wakes (h : Carries C R) (bs : List Block) (p : Part) (hb : ∀ b ∈ bs, TaskIn C p b) :
    Goes C R p (bs.foldl wake p) := by
  induction bs generalizing p with
  | nil => exact goes_refl h p
  | cons b bs ih =>
    have h1 := goes_wake h b p (hb b (by simp))
    exact goes_trans h h1 (ih _ fun c hc => h1.tasks c (hb c (by simp [hc])))

theorem goes_settleFor (h : Carries C R) (n : Nat) (p : Part) (hb : ∀ b ∈ p.waiters, TaskIn C p b) :
    Goes C R p (settleFor n p) := by
  induction n generalizing p with
  | zero => exact goes_refl h p
  | succ n ih =>
    have h1 := goes_wakes h p.waiters p hb
    refine goes_trans h h1 (ih _ ?_)
    intro b hw
    rcases h1.waiters b hw with hp | ht
    · exact h1.tasks b (hb b hp)
    · exact ht

/-- The end of a command, when only blocks with acts of the class wait. -/
theorem goes_settle (h : Carries C R) (p : Part) (hb : ∀ b ∈ p.waiters, TaskIn C p b) : Goes C R p (settle p) :=
  goes_settleFor h _ p hb

/-- Nothing waits: the end of a command changes nothing. -/
@[simp] theorem settle_calm (p : Part) (h : p.waiters = []) : settle p = p := by
  unfold settle; rw [h]; rfl

/-- A command after which only what it started can wait, and all that is of the class. -/
theorem goes_settled (h : Carries C R) {p q : Part} (hp : p.waiters = []) (hq : Goes C R p q) :
    Goes C R p (settle q) := by
  refine goes_trans h hq (goes_settle h q ?_)
  intro b hb
  rcases hq.waiters b hb with hw | ht
  · rw [hp] at hw; cases hw
  · exact ht

/-- A block's next act is carried out, and the block goes on. -/
theorem goes_answer (h : Carries C R) (b : Block) (which : Act → Bool) (p : Part) (hb : TaskIn C p b) :
    Goes C R p (answer b which p) := by
  unfold answer
  split
  · exact goes_refl h p
  · rename_i a rest parts ht
    have hall : ∀ x ∈ (a :: rest), C x := by
      intro x hx; apply hb; rw [ht]; exact hx
    split
    · split
      · rename_i t hk
        have hrest : TaskIn C (p.setTask b ⟨rest, parts⟩) b := by
          unfold TaskIn; rw [task_setTask_same]; exact fun x hx => hall x (by simp [hx])
        have h1 : Goes C R p (p.setTask b ⟨rest, parts⟩) :=
          goes_setTask h _ _ _ (fun x hx => hall x (by simp [hx]))
        have h2 := goes_carry h (hall a (by simp)) hk b parts hrest run (fun k q hq => goes_run h k q hq)
        have h3 := goes_trans h (goes_trans h h1 h2) (goes_unwait h b _)
        exact goes_trans h h3 (goes_run h b _ (h3.tasks b hb))
      · exact goes_refl h p
    · exact goes_refl h p

end Sys2Proof.Laws
end

