-- ==== Sys2Proof/Laws/Frames.lean ====
section
/-! SUPPORT. Which pieces of the part's state each decision function may change, one lemma a function. -/

namespace Sys2Proof.Laws

open Sys2Proof.Machine

/-! ### Folds -/

theorem foldl_frame {α β : Type} (g : Part → β) (set : Part → β → Part) (hg : ∀ p, set p (g p) = p)
    (hs : ∀ p x y, set (set p x) y = set p y)
    (f : Part → α → Part) (hf : ∀ p x, f p x = set p (g (f p x))) (l : List α) (p : Part) :
    l.foldl f p = set p (g (l.foldl f p)) := by
  induction l generalizing p with
  | nil => exact (hg p).symm
  | cons x l ih =>
    simp only [List.foldl_cons]
    have h1 := ih (f p x)
    rw [hf p x, hs] at h1
    rw [hf p x] 
    exact h1

/-! ### The attention unit: attention alone -/

theorem setFlag_frame (p : Part) (n : Lane) (f : Flag) :
    (setFlag p n f).1 = { p with attention := (setFlag p n f).1.attention } := by
  unfold setFlag; split <;> rfl

theorem setShowChange_frame (p : Part) :
    (setShowChange p).1 = { p with attention := (setShowChange p).1.attention } :=
  foldl_frame (·.attention) (fun p x => { p with attention := x }) (fun _ => rfl) (fun _ _ _ => rfl)
    (fun q n => q.setAtt n fun t => { t with flags := t.flags ||| Flag.showChange.mask }) (fun _ _ => rfl) _ p

theorem recordRefusal_frame (p : Part) (n : Lane) (a : Addr) (r : Reason) :
    (recordRefusal p n a r).1 = { p with attention := (recordRefusal p n a r).1.attention } := by
  unfold recordRefusal; split <;> rfl

theorem bringLine_frame (p : Part) (n : Lane) :
    bringLine p n = { p with attention := (bringLine p n).attention } := rfl

theorem clearAttention_frame (p : Part) :
    (clearAttention p).1 = { p with attention := (clearAttention p).1.attention } := rfl

/-! ### The log writer: the log alone -/

theorem logReserve_frame (p : Part) (k : Nat) :
    (logReserve p k).2.1 = { p with log := (logReserve p k).2.1.log } := by
  unfold logReserve; split <;> rfl

theorem logHandBack_frame (p : Part) (k : Nat) :
    (logHandBack p k).1 = { p with log := (logHandBack p k).1.log } := by
  unfold logHandBack; split <;> rfl

theorem writeReserved_frame (p : Part) (d : Draft) : (writeReserved p d).1 = p := rfl

theorem logAdvance_frame (p : Part) (r : Bool) : (logAdvance p r).1 = { p with log := (logAdvance p r).1.log } := rfl

/-! ### The hold unit: the hold unit alone -/

theorem removeHolds_frame (p : Part) (gone : List Hold) (cells : List Act) (mirror : Lane → List Act) :
    (removeHolds p gone cells mirror).1 = { p with hold := (removeHolds p gone cells mirror).1.hold } := rfl

theorem bulkRelease_frame (p : Part) (c : Hold → Bool) :
    (bulkRelease p c).1 = { p with hold := (bulkRelease p c).1.hold } := rfl

theorem sellHolds_frame (p : Part) (sl : SlotNo) : (sellHolds p sl).1 = { p with hold := (sellHolds p sl).1.hold } := rfl

theorem dropHolds_frame (p : Part) (sl : SlotNo) : (dropHolds p sl).1 = { p with hold := (dropHolds p sl).1.hold } := rfl

theorem returnHolds_frame (p : Part) (sl : SlotNo) (seats : List Nat) :
    (returnHolds p sl seats).1 = { p with hold := (returnHolds p sl seats).1.hold } := rfl

theorem expireHold_frame (p : Part) (h : Hold) :
    (expireHold p h).1 = { p with hold := (expireHold p h).1.hold } := rfl

theorem warningPass_frame (p : Part) : (warningPass p).1 = { p with hold := (warningPass p).1.hold } := rfl

theorem pendHolds_frame {p : Part} {sl : SlotNo} {n : Lane} {sh : ShowNo} {seats : List Nat} {c : List Nat}
    {d : Decided} (h : pendHolds p sl n sh seats = some (c, d)) : d.1 = { p with hold := d.1.hold } := by
  unfold pendHolds at h
  split at h
  · cases h
  · cases h; rfl

theorem decideSeat_frame {p : Part} {n : Lane} {a : Addr} {v cell : Word} {d : Decided}
    (h : decideSeat p n a v cell = .ok d) : d.1 = { p with hold := d.1.hold } := by
  unfold decideSeat at h
  split at h
  · cases h
  · split at h
    · unfold Except.map at h
      split at h
      · cases h
      · cases h; rfl
    · unfold decideClaim newClaim renewal at h
      dsimp only at h
      split at h
      · split at h
        · split at h
          · split at h
            · cases h
            · split at h
              · cases h
              · cases h; rfl
          · cases h
        · (repeat' split at h) <;> first | (cases h; done) | (cases h; rfl)
      · (repeat' split at h) <;> first | (cases h; done) | (cases h; rfl)

/-! ### The voucher directory: the directory alone -/

theorem foldl_directory {α : Type} (f : Part → α → Part)
    (hf : ∀ p x, f p x = { p with directory := (f p x).directory }) (l : List α) (p : Part) :
    l.foldl f p = { p with directory := (l.foldl f p).directory } :=
  foldl_frame (·.directory) (fun p x => { p with directory := x }) (fun _ => rfl) (fun _ _ _ => rfl) f hf l p

theorem freeVouchers_frame (p : Part) (is : List VoucherNo) :
    freeVouchers p is = { p with directory := (freeVouchers p is).directory } := by
  unfold freeVouchers
  rw [foldl_directory (fun q i => q.setVoucher i fun _ => Voucher.initial) (fun _ _ => rfl) is p]

theorem returnVouchers_frame (p : Part) (is : List VoucherNo) :
    (returnVouchers p is).1 = { p with directory := (returnVouchers p is).1.directory } := freeVouchers_frame p is

theorem retireVouchers_frame (p : Part) (sh : ShowNo) :
    (retireVouchers p sh).1 = { p with directory := (retireVouchers p sh).1.directory } := freeVouchers_frame p _

theorem reserveVouchers_frame (p : Part) (sl : SlotNo) (sh : ShowNo) (items : List Nat) :
    (reserveVouchers p sl sh items).2.1 = { p with directory := (reserveVouchers p sl sh items).2.1.directory } := by
  unfold reserveVouchers
  dsimp only
  rw [foldl_directory _ (fun _ _ => rfl)]

theorem issueVouchers_frame (p : Part) (is : List VoucherNo) :
    (issueVouchers p is).1 = { p with directory := (issueVouchers p is).1.directory } := by
  unfold issueVouchers
  dsimp only
  have key : ∀ (l : List VoucherNo) (d : Decided),
      (l.foldl issueOne d).1 = { d.1 with directory := (l.foldl issueOne d).1.directory } := by
    intro l
    induction l with
    | nil => intro d; rfl
    | cons i l ih =>
      intro d
      simp only [List.foldl_cons]
      have h := ih (issueOne d i)
      have e : (issueOne d i).1 = { d.1 with directory := (issueOne d i).1.directory } := rfl
      rw [e] at h
      exact h
  exact key is (p, [])

theorem redeemVoucher_frame (p : Part) (n : Lane) (i : VoucherNo) (m : Nat) :
    (redeemVoucher p n i m).1 = { p with directory := (redeemVoucher p n i m).1.directory } := rfl

theorem rebuildCell_frame (p : Part) (i : VoucherNo) (w0 w1 w2 w3 : Word) :
    (rebuildCell p i w0 w1 w2 w3).1 = { p with directory := (rebuildCell p i w0 w1 w2 w3).1.directory } := by
  unfold rebuildCell; split <;> rfl

theorem rebuildFree_frame (p : Part) : rebuildFree p = { p with directory := (rebuildFree p).directory } := rfl

theorem startClear_frame (p : Part) : (startClear p).1 = { p with directory := (startClear p).1.directory } := rfl

theorem startRebuild_frame (p : Part) : (startRebuild p).1 = { p with directory := (startRebuild p).1.directory } := rfl

/-! ### The order unit: the order unit alone -/

theorem commit_frame (p : Part) (sl : SlotNo) (t : Shadow) :
    p.commit sl t = { p with order := (p.commit sl t).order } := rfl

theorem leaveQueue_frame (p : Part) (st : SlotState) (sl : SlotNo) :
    p.leaveQueue st sl = { p with order := (p.leaveQueue st sl).order } := rfl

theorem teardown_frame (p : Part) (n : Lane) : (teardown p n).1 = { p with order := (teardown p n).1.order } :=
  foldl_frame (·.order) (fun p x => { p with order := x }) (fun _ => rfl) (fun _ _ _ => rfl)
    (fun q sl => q.leaveQueue .cancelled sl) (fun _ _ => rfl) _ p

theorem closeEnd_frame (p : Part) (sl : SlotNo) (c : List Nat) (is : List VoucherNo) :
    (closeEnd p sl c is).1 = { p with order := (closeEnd p sl c is).1.order } := by
  unfold closeEnd; dsimp only; split <;> rfl

/-! ### The print engine: the print engine alone -/

theorem takeHandoff_frame (p : Part) (sl : SlotNo) (c : Choice) :
    (takeHandoff p sl c).1 = { p with print := (takeHandoff p sl c).1.print } := rfl

theorem haltSide_frame (p : Part) (d : Printer) (sl : SlotNo) (st : SideState) (c : FaultCause) :
    (haltSide p d sl st c).1 = { p with print := (haltSide p d sl st c).1.print } := rfl

theorem placeStrip_frame (p : Part) (d : Printer) (sl : SlotNo) :
    placeStrip p d sl = { p with print := (placeStrip p d sl).print } := by
  unfold placeStrip; dsimp only; split <;> rfl

theorem goOnFilling_frame (p : Part) (d : Printer) :
    (goOnFilling p d).1 = { p with print := (goOnFilling p d).1.print } := by
  unfold goOnFilling; split <;> rfl

theorem fillStrip_frame (p : Part) (d : Printer) (sl : SlotNo) (k : Nat) :
    (fillStrip p d sl k).1 = { p with print := (fillStrip p d sl k).1.print } := by
  unfold fillStrip
  dsimp only
  split
  · rfl
  · split
    · rfl
    · rw [goOnFilling_frame]
      have h := placeStrip_frame p d sl
      generalize placeStrip p d sl = q at h ⊢
      rw [h]
      rfl

theorem fillItem_frame (p : Part) (d : Printer) (sl : SlotNo) :
    (fillItem p d sl).1 = { p with print := (fillItem p d sl).1.print } := by
  unfold fillItem
  dsimp only
  split
  · rfl
  · split
    · split
      · split
        · exact fillStrip_frame ..
        · rfl
      · rw [goOnFilling_frame]; rfl
    · split
      · exact fillStrip_frame ..
      · split <;> rfl

theorem sideToIdle_frame (p : Part) (d : Printer) :
    (sideToIdle p d).1 = { p with print := (sideToIdle p d).1.print } := by
  unfold sideToIdle; split <;> rfl

theorem startJob_frame (p : Part) (d : Printer) (sl : SlotNo) :
    (startJob p d sl).1 = { p with print := (startJob p d sl).1.print } := rfl

theorem beginExchange_frame (p : Part) (d : Printer) (k : BlockKind) :
    beginExchange p d k = { p with print := (beginExchange p d k).print } := by
  unfold beginExchange; split <;> rfl

theorem heldForRetry_frame (p : Part) (d : Printer) (sl : SlotNo) :
    (heldForRetry p d sl).1 = { p with print := (heldForRetry p d sl).1.print } := by
  unfold heldForRetry; dsimp only; split <;> rfl

theorem answerData_frame (p : Part) (d : Printer) (sl : SlotNo) (a : Answer) :
    (answerData p d sl a).1 = { p with print := (answerData p d sl a).1.print } := by
  unfold answerData
  cases a
  · rfl
  · rfl
  · exact heldForRetry_frame ..
  · rfl

theorem answerCut_frame (p : Part) (d : Printer) (sl : SlotNo) (a : Answer) :
    (answerCut p d sl a).1 = { p with print := (answerCut p d sl a).1.print } := by
  unfold answerCut
  cases a
  · rfl
  · rfl
  · exact heldForRetry_frame ..
  · rfl

theorem answerStatus_frame (p : Part) (d : Printer) (a : Answer) :
    (answerStatus p d a).1 = { p with print := (answerStatus p d a).1.print } := by
  unfold answerStatus
  cases a <;> rfl

theorem deliverSpool_frame (p : Part) (d : Printer) (k : Nat) (w : Word) :
    deliverSpool p d k w = { p with print := (deliverSpool p d k w).print } := rfl

/-! ### The tender link: the link alone -/

theorem settleLink_frame (p : Part) : settleLink p = { p with tender := (settleLink p).tender } := by
  unfold settleLink
  split
  · rfl
  · split
    · rfl
    · split
      · rfl
      · split <;> rfl

theorem examineQuiet_frame (p : Part) :
    (examineQuiet p).1 = { p with tender := (examineQuiet p).1.tender } := by
  unfold examineQuiet
  dsimp only
  (repeat' split) <;> rfl

theorem clockByte_frame (p : Part) (b : Byte) : clockByte p b = { p with tender := (clockByte p b).tender } := by
  unfold clockByte; split <;> rfl

theorem clockBits_frame (p : Part) (k : Nat) : clockBits p k = { p with tender := (clockBits p k).tender } := by
  unfold clockBits
  split
  · split <;> rfl
  · rfl

theorem clockBytes_frame (l : List Byte) (p : Part) :
    l.foldl clockByte p = { p with tender := (l.foldl clockByte p).tender } :=
  foldl_frame (·.tender) (fun p x => { p with tender := x }) (fun _ => rfl) (fun _ _ _ => rfl) clockByte clockByte_frame l p

theorem clockLink_frame (p : Part) (c : Byte) (k : Clocking) :
    clockLink p c k = { p with tender := (clockLink p c k).tender } := by
  unfold clockLink
  split
  · rfl
  · split
    · rw [clockBits_frame, clockBytes_frame]
    · split
      · rw [clockBits_frame, clockBytes_frame]
      · rfl

theorem startTransaction_frame (p : Part) :
    startTransaction p = { p with tender := (startTransaction p).tender } := by
  unfold startTransaction; split <;> rfl

/-! ### Shows and sweeps -/

theorem goDark_frame (p : Part) (sh : ShowNo) :
    goDark p sh = { p with shows := (goDark p sh).shows, hold := (goDark p sh).hold } := by
  unfold goDark; dsimp only; split <;> rfl

theorem evaluateShow_frame (p : Part) (shs : List ShowNo) (m : Nat) :
    (evaluateShow p shs m).1
      = { p with shows := (evaluateShow p shs m).1.shows, hold := (evaluateShow p shs m).1.hold } := by
  unfold evaluateShow
  split
  · rfl
  · dsimp only
    split
    · rfl
    · split
      · exact goDark_frame ..
      · rfl

theorem chooseState_frame (p : Part) (sh : ShowNo) :
    chooseState p sh = { p with shows := (chooseState p sh).shows, hold := (chooseState p sh).hold } := by
  unfold chooseState
  dsimp only
  split
  · exact goDark_frame ..
  · split <;> rfl

theorem sweepCell_frame (p : Part) (c : SweepPos) (w : Word) :
    (sweepCell p c w).1 = { p with sweep := (sweepCell p c w).1.sweep } := rfl

/-! ### The setup controller -/

theorem refuseSetup_frame (p : Part) (a b : Nat) :
    (refuseSetup p a b).1 = { p with setup := (refuseSetup p a b).1.setup } := rfl

theorem keepPassing_frame (p : Part) : p.keepPassing = { p with lanes := p.keepPassing.lanes } := rfl

theorem acceptHeader_frame (p : Part) :
    (acceptHeader p).1 = { p with setup := (acceptHeader p).1.setup, lanes := (acceptHeader p).1.lanes } := by
  unfold acceptHeader
  split
  · rfl
  · dsimp only
    split <;> rfl

theorem dropEvaluation_frame (p : Part) : p.dropEvaluation = { p with work := p.dropEvaluation.work } := rfl

/-- What outlives a block's withdrawal values: foyer memory's writes still queued, the blocks' decisions, and what
the withdrawal itself has set. -/
theorem takeWithdrawal_frame (p : Part) (b : Block) :
    takeWithdrawal p b = { takeWithdrawal p b with
      resetLow := p.resetLow, windows := p.windows, rotation := p.rotation, queue := p.queue, waiters := p.waiters
      work := p.work, order := p.order, tender := p.tender, setup := p.setup } := by
  unfold takeWithdrawal; split <;> first | rfl | (split <;> rfl)

theorem loadPrice_frame (p : Part) (k : Nat) (v : Word) :
    (loadPrice p k v).1 = { p with order := (loadPrice p k v).1.order } := rfl

theorem initLog_frame (p : Part) : (initLog p).1 = { p with log := (initLog p).1.log } := rfl

theorem initLanes_frame (p : Part) : (initLanes p).1 = { p with attention := (initLanes p).1.attention } := rfl

theorem determineShow_frame (p : Part) (sh : ShowNo) (got : List Word) :
    (determineShow p sh got).1
      = { p with shows := (determineShow p sh got).1.shows, setup := (determineShow p sh got).1.setup } := by
  unfold determineShow
  split
  · dsimp only
    split <;> rfl
  · rfl

theorem loadShow_frame (p : Part) (k : Nat) (got : List Word) (v : Word) :
    (loadShow p k got v).1
      = { p with shows := (loadShow p k got v).1.shows, setup := (loadShow p k got v).1.setup } := by
  unfold loadShow
  dsimp only
  split
  · rfl
  · exact determineShow_frame ..

theorem startClock_frame (p : Part) : (startClock p).1 = { p with clock := (startClock p).1.clock } := rfl

theorem enterSweeping_frame (p : Part) :
    enterSweeping p = { p with setup := (enterSweeping p).setup, sweep := (enterSweeping p).sweep } := rfl

/-! ### The deadlines of a second event: the list of slots found reached alone -/

theorem examineDeadlines_frame (p : Part) (run : RunSecond) : examineDeadlines p run
    = { p with order := { p.order with due := (examineDeadlines p run).order.due } } := rfl

/-- What the check finds (R107). -/
theorem mem_due_examineDeadlines (p : Part) (run : RunSecond) (sl : SlotNo) :
    sl ∈ (examineDeadlines p run).order.due ↔ sl ∈ p.order.due ∨
      sl ∈ p.order.window ∧ ∃ d, (p.slot sl).deadline = some d ∧ reached run d = true := by
  unfold examineDeadlines
  by_cases h : sl ∈ p.order.due
  · simp [h]
  · cases hd : (p.slot sl).deadline <;> simp [h, hd]

/-- A free order unit makes the check of a second event at once (R69). -/
theorem askDeadlines_free {p : Part} (h : p.busy .order = false) :
    askDeadlines p = examineDeadlines p p.clock.run := by
  unfold askDeadlines; rw [if_neg (by simp [h])]

/-- One inside a decision has the check to make at its end (R69). -/
theorem askDeadlines_busy {p : Part} (h : p.busy .order = true) :
    askDeadlines p = p.post .order [.deadlines p.clock.run] := by
  unfold askDeadlines; rw [if_pos h]

end Sys2Proof.Laws
end

