-- ==== Sys2Proof/Laws/Light.lean ====
section
/-! SUPPORT. Decisions of placements, completions and attention flags leave every other piece of the part's state
as it was. -/

namespace Sys2Proof.Laws

open Sys2Proof.Machine

/-! ### The two relations -/

theorem placed_refl (p : Part) : Part.Placed p p := ⟨rfl, fun _ => rfl⟩

theorem placed_trans {p q r : Part} (h : Part.Placed p q) (k : Part.Placed q r) : Part.Placed p r := by
  refine ⟨?_, fun n => ?_⟩
  · have h1 := h.1; have k1 := k.1
    rw [k1, h1]
  · rw [k.2 n, h.2 n]

theorem flagged_refl (p : Part) : Part.Flagged p p := ⟨placed_refl p, fun _ => rfl, fun _ => BitVec.and_self⟩

theorem flagged_of_placed {p q : Part} (h : Part.Placed p q) : Part.Flagged p q := by
  have ha : q.attention = p.attention := by rw [h.1]
  refine ⟨?_, fun n => ?_, fun n => ?_⟩
  · have : ({ p with attention := q.attention } : Part) = p := by rw [ha]
    rw [this]; exact h
  · unfold Part.att; rw [ha]
  · unfold Part.att; rw [ha]; exact BitVec.and_self

theorem flagged_trans {p q r : Part} (h : Part.Flagged p q) (k : Part.Flagged q r) : Part.Flagged p r := by
  obtain ⟨⟨h1, h2⟩, h3, h4⟩ := h
  obtain ⟨⟨k1, k2⟩, k3, k4⟩ := k
  refine ⟨⟨?_, fun n => ?_⟩, fun n => ?_, fun n => ?_⟩
  · rw [k1, h1]
  · have := k2 n
    rw [this]
    have e : ({ q with attention := r.attention } : Part).lane n = q.lane n := rfl
    rw [e, h2 n]
    rfl
  · rw [k3 n, h3 n]
  · have e : (p.att n).flags &&& (r.att n).flags
        = (p.att n).flags &&& ((q.att n).flags &&& (r.att n).flags) := by
      rw [← BitVec.and_assoc, h4 n]
    rw [e, k4 n, h4 n]

/-- What every placing act keeps, in SWEEPING and RUNNING: there the placements serve no capture (R170). -/
def PlacedIn (p q : Part) : Prop := p.accepted = true → Part.Placed p q ∧ q.accepted = true

/-- As `PlacedIn`, with flags. -/
def FlaggedIn (p q : Part) : Prop := p.accepted = true → Part.Flagged p q ∧ q.accepted = true

theorem placedIn_refl (p : Part) : PlacedIn p p := fun h => ⟨placed_refl p, h⟩
theorem placedIn_trans {p q r : Part} (h : PlacedIn p q) (k : PlacedIn q r) : PlacedIn p r := fun a =>
  let x := h a; let y := k x.2; ⟨placed_trans x.1 y.1, y.2⟩
theorem flaggedIn_refl (p : Part) : FlaggedIn p p := fun h => ⟨flagged_refl p, h⟩
theorem flaggedIn_trans {p q r : Part} (h : FlaggedIn p q) (k : FlaggedIn q r) : FlaggedIn p r := fun a =>
  let x := h a; let y := k x.2; ⟨flagged_trans x.1 y.1, y.2⟩
theorem flaggedIn_of_placedIn {p q : Part} (h : PlacedIn p q) : FlaggedIn p q := fun a =>
  ⟨flagged_of_placed (h a).1, (h a).2⟩

/-! ### Accesses and placements -/

/-- The lane's access and data lines may change, nothing else. -/
theorem placed_setLane (p : Part) (n : Lane) (f : LaneIf → LaneIf)
    (hf : ∀ l, f l = { l with access := (f l).access, dout := (f l).dout }) : Part.Placed p (p.setLane n f) := by
  refine ⟨rfl, fun m => ?_⟩
  rw [lane_setLane]
  split
  · exact hf _
  · rfl

theorem placed_finish (p : Part) (n : Lane) : Part.Placed p (p.finish n) :=
  placed_setLane p n _ fun _ => rfl

theorem placed_finishRead (p : Part) (n : Lane) (v : Word) : Part.Placed p (p.finishRead n v) :=
  placed_setLane p n _ fun _ => rfl

theorem placed_queue (p : Part) (q : List (Addr × Word)) : Part.Placed p { p with queue := q } := ⟨rfl, fun _ => rfl⟩

theorem treatment_not_capture {p : Part} (h : p.accepted = true) (n : Lane) (a : Addr) (k : Nat) :
    p.treatment n a ≠ .capture k := by
  unfold Part.treatment treatAccepted treatLaneBlock
  rw [if_pos h]
  split <;> (repeat' split) <;> simp_all

theorem placed_passDone (p : Part) (h : p.accepted = true) (n : Lane) (a : Addr) (v : Word) :
    Part.Placed p (p.passDone n a v) := by
  unfold Part.passDone
  split
  · rename_i k hk; exact absurd hk (treatment_not_capture h n a k)
  · exact placed_finish p n

theorem accepted_placed {p q : Part} (h : Part.Placed p q) (a : p.accepted = true) : q.accepted = true := by
  rw [h.1]; exact a

theorem placedIn_serveLane (a : Addr) (p : Part) (n : Lane) : PlacedIn p (serveLane a p n) := by
  intro h
  suffices hs : Part.Placed p (serveLane a p n) from ⟨hs, accepted_placed hs h⟩
  unfold serveLane
  split
  · exact placed_finishRead ..
  · split
    · split
      · exact placed_trans (placed_queue p _) (placed_passDone _ (by exact h) ..)
      · exact placed_refl p
    · exact placed_refl p

theorem placedIn_foldl {α : Type} (f : Part → α → Part) (hf : ∀ p x, PlacedIn p (f p x)) (l : List α) (p : Part) :
    PlacedIn p (l.foldl f p) := by
  induction l generalizing p with
  | nil => exact placedIn_refl p
  | cons x l ih => exact placedIn_trans (hf p x) (ih _)

theorem placedIn_placeWord {p q : Part} {a : Addr} {v : Word} (h : placeWord p a v = some q) : PlacedIn p q := by
  unfold placeWord at h
  split at h
  · cases h
  · rename_i r hr
    cases h
    split
    · exact fun ha => ⟨placed_queue p r, ha⟩
    · exact placedIn_trans (q := { p with queue := r }) (fun ha => ⟨placed_queue p r, ha⟩)
        (placedIn_foldl _ (placedIn_serveLane a) _ _)

theorem serveLane_work (a : Addr) (p : Part) (n : Lane) :
    (serveLane a p n).work = p.work ∧ (serveLane a p n).waiters = p.waiters := by
  unfold serveLane
  split
  · exact ⟨rfl, rfl⟩
  · split
    · split
      · unfold Part.passDone; split <;> exact ⟨rfl, rfl⟩
      · exact ⟨rfl, rfl⟩
    · exact ⟨rfl, rfl⟩

theorem placeWord_work {p q : Part} {a : Addr} {v : Word} (h : placeWord p a v = some q) :
    q.work = p.work ∧ q.waiters = p.waiters := by
  unfold placeWord at h
  split at h
  · cases h
  · cases h
    split
    · exact ⟨rfl, rfl⟩
    · rename_i r _ _
      have key : ∀ (l : List Lane) (p : Part), (l.foldl (serveLane a) p).work = p.work ∧
          (l.foldl (serveLane a) p).waiters = p.waiters := by
        intro l
        induction l with
        | nil => intro p; exact ⟨rfl, rfl⟩
        | cons n l ih =>
          intro p
          have := serveLane_work a p n
          exact ⟨(ih _).1.trans this.1, (ih _).2.trans this.2⟩
      exact key _ _

/-! ### The attention unit -/

theorem setAtt_attention (p : Part) (n : Lane) (f : Attention → Attention) :
    p.setAtt n f = { p with attention := (p.setAtt n f).attention } := rfl

/-- A change of one lane's attention state that keeps the mask and the refusal record and clears no flag. -/
theorem flagged_setAtt (p : Part) (n : Lane) (f : Attention → Attention)
    (hf : ∀ t, f t = { t with flags := (f t).flags, line := (f t).line })
    (hs : ∀ t, t.flags &&& (f t).flags = t.flags) : Part.Flagged p (p.setAtt n f) := by
  refine ⟨placed_refl _, fun m => ?_, fun m => ?_⟩
  · rw [att_setAtt]
    split
    · exact hf _
    · rfl
  · rw [att_setAtt]
    split
    · exact hs _
    · exact BitVec.and_self

theorem and_or_self (x y : Word) : x &&& (x ||| y) = x := by
  ext i; simp; intro h; exact .inl h

theorem flagged_setFlag (p : Part) (n : Lane) (f : Flag) : Part.Flagged p (setFlag p n f).1 := by
  unfold setFlag
  split
  · exact flagged_refl p
  · exact flagged_setAtt p n _ (fun _ => rfl) (fun _ => and_or_self _ _)

theorem flagged_foldl {α : Type} (f : Part → α → Part) (hf : ∀ p x, Part.Flagged p (f p x)) (l : List α) (p : Part) :
    Part.Flagged p (l.foldl f p) := by
  induction l generalizing p with
  | nil => exact flagged_refl p
  | cons x l ih => exact flagged_trans (hf p x) (ih _)

theorem flagged_setShowChange (p : Part) : Part.Flagged p (setShowChange p).1 := by
  unfold setShowChange
  exact flagged_foldl _ (fun p n => flagged_setAtt p n _ (fun _ => rfl) (fun _ => and_or_self _ _)) _ _

theorem flagged_bringLine (p : Part) (n : Lane) : Part.Flagged p (bringLine p n) :=
  flagged_setAtt p n _ (fun _ => rfl) (fun _ => BitVec.and_self)

theorem flagged_work {p q : Part} (h : Part.Flagged p q) : p.accepted = true → q.accepted = true := by
  intro a
  have := h.1.1
  rw [this]; exact a

/-! ### The two classes of acts -/

/-- Placements and the completion of an access. -/
def Placing : Act → Prop
  | .place _ _ | .sync _ | .finish _ => True
  | _ => False

/-- Placements, completions and requests to the attention unit. -/
def Light : Act → Prop
  | .place _ _ | .sync _ | .finish _ | .line _ | .flag _ _ | .showChange => True
  | _ => False

theorem light_of_placing {a : Act} (h : Placing a) : Light a := by cases a <;> trivial

theorem readAddr_light {p : Part} {a : Act} (h : Light a) : readAddr p a = none := by
  cases a <;> first | rfl | exact False.elim h

theorem changedWords_placing (p q : Part) (ws : List PartWord) : ∀ a ∈ changedWords p q ws, Placing a := by
  intro a ha
  obtain ⟨w, _, rfl⟩ := List.mem_map.1 ha
  trivial

theorem attentionLines_light (p : Part) (ns : List Lane) : ∀ a ∈ attentionLines p ns, Light a := by
  unfold attentionLines
  split
  · intro a ha
    obtain ⟨n, _, rfl⟩ := List.mem_map.1 ha
    trivial
  · intro a ha; cases ha

theorem attentionChange_light (p : Part) (n : Lane) (f : Attention → Attention) :
    ∀ a ∈ (attentionChange p n f).2, Light a := by
  intro a ha
  rcases List.mem_append.1 ha with ha | ha
  · exact light_of_placing (changedWords_placing _ _ _ a ha)
  · exact attentionLines_light _ _ a ha

theorem setFlag_light (p : Part) (n : Lane) (f : Flag) : ∀ a ∈ (setFlag p n f).2, Light a := by
  unfold setFlag
  split
  · intro a ha; cases ha
  · exact attentionChange_light p n _

theorem setShowChange_light (p : Part) : ∀ a ∈ (setShowChange p).2, Light a := by
  intro a ha
  rcases List.mem_append.1 ha with ha | ha
  · obtain ⟨n, _, hx⟩ := List.mem_flatMap.1 ha
    exact light_of_placing (changedWords_placing _ _ _ a hx)
  · exact attentionLines_light _ _ a ha

theorem ask_eq {p : Part} {b : Block} {d : Decided} {next : List Act} {t : Took} (h : ask p b d next = some t) :
    p.busy b = false ∧ t = { part := d.1, acts := next, started := some (b, d.2) } := by
  unfold ask at h
  split at h
  · cases h
  · rename_i hb
    cases h
    exact ⟨by simpa using hb, rfl⟩

theorem setFlag_work (p : Part) (n : Lane) (f : Flag) :
    (setFlag p n f).1.work = p.work ∧ (setFlag p n f).1.waiters = p.waiters := by
  unfold setFlag; split <;> exact ⟨rfl, rfl⟩

theorem setShowChange_work (p : Part) :
    (setShowChange p).1.work = p.work ∧ (setShowChange p).1.waiters = p.waiters := by
  unfold setShowChange
  have key : ∀ (l : List Lane) (q : Part),
      (l.foldl (fun q n => q.setAtt n fun t => { t with flags := t.flags ||| Flag.showChange.mask }) q).work = q.work ∧
      (l.foldl (fun q n => q.setAtt n fun t => { t with flags := t.flags ||| Flag.showChange.mask }) q).waiters
        = q.waiters := by
    intro l
    induction l with
    | nil => intro q; exact ⟨rfl, rfl⟩
    | cons n l ih => intro q; exact ⟨(ih _).1, (ih _).2⟩
  exact key _ _

/-- Everything that a light act can do. -/
theorem take_light {p : Part} {a : Act} {t : Took} (h : Light a) (ht : take p a = some t) :
    FlaggedIn p t.part ∧ t.part.work = p.work ∧ t.part.waiters = p.waiters ∧ t.acts = [] ∧ t.kicks = [] ∧
      (∀ b l, t.started = some (b, l) → b = .attention ∧ p.busy .attention = false ∧ ∀ x ∈ l, Light x) := by
  unfold take at ht
  rw [readAddr_light h] at ht
  cases a <;> try exact False.elim h
  · obtain ⟨q, hq, e⟩ := Option.bind_eq_some_iff.1 ht
    cases e
    obtain ⟨hw, hs⟩ := placeWord_work hq
    exact ⟨flaggedIn_of_placedIn (placedIn_placeWord hq), hw, hs, rfl, rfl, fun _ _ x => nomatch x⟩
  · obtain ⟨q, hq, e⟩ := Option.bind_eq_some_iff.1 ht
    cases e
    obtain ⟨hw, hs⟩ := placeWord_work hq
    exact ⟨flaggedIn_of_placedIn (placedIn_placeWord hq), hw, hs, rfl, rfl, fun _ _ x => nomatch x⟩
  · cases ht
    exact ⟨fun a => ⟨flagged_of_placed (placed_finish ..), a⟩, rfl, rfl, rfl, rfl, fun _ _ x => nomatch x⟩
  · cases ht
    exact ⟨fun a => ⟨flagged_bringLine .., a⟩, rfl, rfl, rfl, rfl, fun _ _ x => nomatch x⟩
  · obtain ⟨hb, e⟩ := ask_eq ht
    subst e
    have hf := flagged_setFlag p ‹Lane› ‹Flag›
    refine ⟨fun a => ⟨hf, flagged_work hf a⟩, (setFlag_work ..).1, (setFlag_work ..).2, rfl, rfl, ?_⟩
    intro b l e
    cases e
    exact ⟨rfl, hb, setFlag_light p _ _⟩
  · obtain ⟨hb, e⟩ := ask_eq ht
    subst e
    have hf := flagged_setShowChange p
    refine ⟨fun a => ⟨hf, flagged_work hf a⟩, (setShowChange_work ..).1, (setShowChange_work ..).2, rfl, rfl, ?_⟩
    intro b l e
    cases e
    exact ⟨rfl, hb, setShowChange_light p⟩

/-- Everything that a placing act can do. -/
theorem take_placing {p : Part} {a : Act} {t : Took} (h : Placing a) (ht : take p a = some t) :
    PlacedIn p t.part ∧ t.part.work = p.work ∧ t.part.waiters = p.waiters ∧ t.acts = [] ∧ t.kicks = [] ∧
      t.started = none := by
  unfold take at ht
  rw [readAddr_light (light_of_placing h)] at ht
  cases a <;> try exact False.elim h
  · obtain ⟨q, hq, e⟩ := Option.bind_eq_some_iff.1 ht
    cases e
    obtain ⟨hw, hs⟩ := placeWord_work hq
    exact ⟨placedIn_placeWord hq, hw, hs, rfl, rfl, rfl⟩
  · obtain ⟨q, hq, e⟩ := Option.bind_eq_some_iff.1 ht
    cases e
    obtain ⟨hw, hs⟩ := placeWord_work hq
    exact ⟨placedIn_placeWord hq, hw, hs, rfl, rfl, rfl⟩
  · cases ht
    exact ⟨fun a => ⟨placed_finish .., a⟩, rfl, rfl, rfl, rfl, rfl⟩

/-! ### Whole decisions -/

theorem placed_work (p : Part) (w : Vector Task 19) (ws : List Block) :
    Part.Placed p { p with work := w, waiters := ws } := ⟨rfl, fun _ => rfl⟩

theorem taskIn_of_work {C : Act → Prop} {p q : Part} (h : q.work = p.work) (b : Block) (hb : TaskIn C p b) :
    TaskIn C q b := by
  unfold TaskIn; rw [task_of_work h]; exact hb

/-- Decisions of light acts. -/
theorem carries_light : Carries Light FlaggedIn where
  refl := flaggedIn_refl
  trans _ _ _ := flaggedIn_trans
  work p w ws := fun a => ⟨flagged_of_placed (placed_work p w ws), a⟩
  act _ _ _ h ht := (take_light h ht).1
  tasks _ _ _ h ht b hb := taskIn_of_work (take_light h ht).2.1 b hb
  waiters _ _ _ h ht b hb := .inl (by rwa [(take_light h ht).2.2.1] at hb)
  acts _ _ _ h ht x hx := by rw [(take_light h ht).2.2.2.1] at hx; cases hx
  started _ _ _ b l h ht hs := ((take_light h ht).2.2.2.2.2 b l hs).2.2
  kicks _ _ _ h ht k hk := by rw [(take_light h ht).2.2.2.2.1] at hk; cases hk

/-- Decisions of placing acts. -/
theorem carries_placing : Carries Placing PlacedIn where
  refl := placedIn_refl
  trans _ _ _ := placedIn_trans
  work p w ws := fun a => ⟨placed_work p w ws, a⟩
  act _ _ _ h ht := (take_placing h ht).1
  tasks _ _ _ h ht b hb := taskIn_of_work (take_placing h ht).2.1 b hb
  waiters _ _ _ h ht b hb := .inl (by rwa [(take_placing h ht).2.2.1] at hb)
  acts _ _ _ h ht x hx := by rw [(take_placing h ht).2.2.2.1] at hx; cases hx
  started _ _ _ b l h ht hs := by rw [(take_placing h ht).2.2.2.2.2] at hs; cases hs
  kicks _ _ _ h ht k hk := by rw [(take_placing h ht).2.2.2.2.1] at hk; cases hk

/-- A decision whose acts are light, taken while no block waits: nothing but placements, completions and flags
follows it. -/
theorem decideAt_flagged {p : Part} (b : Block) (pace : Pace) (acts : List Act) (hp : p.waiters = [])
    (ha : p.accepted = true) (hl : ∀ a ∈ acts, Light a) :
    Part.Flagged p (settle (decideAt b pace (p, acts))) :=
  ((goes_settled carries_light hp (goes_decideAt carries_light b pace p acts hl)).rel ha).1

/-- A decision whose acts are placing, taken while no block waits: nothing but placements and completions follows
it. -/
theorem decideAt_placed {p : Part} (b : Block) (pace : Pace) (acts : List Act) (hp : p.waiters = [])
    (ha : p.accepted = true) (hl : ∀ a ∈ acts, Placing a) :
    Part.Placed p (settle (decideAt b pace (p, acts))) :=
  ((goes_settled carries_placing hp (goes_decideAt carries_placing b pace p acts hl)).rel ha).1

end Sys2Proof.Laws
end

