-- ==== Sys2Proof/Laws/Queue.lean ====
section
/-! SUPPORT. The update queue: what a placement does to it, and that its bounds are kept. -/

namespace Sys2Proof.Laws

open Sys2Proof.Machine

theorem queueFind_isSome {q : List (Addr × Word)} {a : Addr} :
    (queueFind q a).isSome = true ↔ a ∈ q.map (·.1) := by
  induction q with
  | nil => simp [queueFind]
  | cons e q ih =>
    obtain ⟨b, w⟩ := e
    simp only [queueFind]
    split
    · simp [*]
    · rename_i h
      have : ¬ a = b := fun e => h e.symm
      simp [ih, this]

theorem queueFind_none {q : List (Addr × Word)} {a : Addr} : queueFind q a = none ↔ a ∉ q.map (·.1) := by
  rw [← queueFind_isSome]; simp

theorem queueReplace_keys (q : List (Addr × Word)) (a : Addr) (v : Word) :
    (queueReplace q a v).map (·.1) = q.map (·.1) := by
  unfold queueReplace
  rw [List.map_map]
  apply List.map_congr_left
  intro e _
  simp only [Function.comp]
  split <;> simp_all

theorem queueReplace_ok {q : List (Addr × Word)} (h : queueOk q) (a : Addr) (v : Word) :
    queueOk (queueReplace q a v) := by
  refine ⟨?_, ?_⟩
  · simpa [queueReplace] using h.1
  · rw [queueReplace_keys]; exact h.2

theorem queueFind_replace (q : List (Addr × Word)) (a b : Addr) (v : Word) :
    queueFind (queueReplace q a v) b = if b = a then (queueFind q a).map (fun _ => v) else queueFind q b := by
  induction q with
  | nil => simp [queueReplace, queueFind]
  | cons e q ih =>
    obtain ⟨x, w⟩ := e
    have hc : queueReplace ((x, w) :: q) a v
        = (if x = a then (a, v) else (x, w)) :: queueReplace q a v := rfl
    rw [hc]
    by_cases hx : x = a
    · subst hx
      by_cases hb : b = x
      · subst hb; simp [queueFind]
      · have : ¬ x = b := fun e => hb e.symm
        simp only [if_true, queueFind, this, if_false, ih, hb]
    · by_cases hb : b = a
      · subst hb
        simp only [hx, if_false, queueFind, ih, if_true]
      · simp only [hx, if_false, queueFind, ih, hb]

/-- A placement that goes in keeps the bounds, and the queue then holds the value for its word and what it held
for every other word. -/
theorem queuePlace_spec {q r : List (Addr × Word)} {a : Addr} {v : Word} (h : queuePlace q a v = some r) :
    (queueOk q → queueOk r) ∧ (∀ b, queueFind r b = if b = a then some v else queueFind q b) := by
  unfold queuePlace at h
  split at h
  · rename_i hs
    cases h
    refine ⟨fun hq => queueReplace_ok hq a v, fun b => ?_⟩
    rw [queueFind_replace]
    split
    · obtain ⟨w, hw⟩ := Option.isSome_iff_exists.1 hs
      simp [hw]
    · rfl
  · rename_i hs
    split at h
    · rename_i hl
      cases h
      have hn : queueFind q a = none := by simpa using hs
      refine ⟨fun hq => ⟨by simp; omega, ?_⟩, fun b => ?_⟩
      · rw [List.map_append, List.nodup_append]
        refine ⟨hq.2, by simp, ?_⟩
        intro x hx y hy
        simp at hy
        subst hy
        rintro rfl
        exact queueFind_none.1 hn hx
      · have app : ∀ (l : List (Addr × Word)), queueFind (l ++ [(a, v)]) b
            = (queueFind l b).or (if a = b then some v else none) := by
          intro l
          induction l with
          | nil => simp [queueFind]
          | cons e l ih =>
            obtain ⟨x, w⟩ := e
            simp only [List.cons_append, queueFind]
            split
            · simp
            · exact ih
        rw [app]
        by_cases hb : b = a
        · subst hb; simp [hn]
        · have : ¬ a = b := fun e => hb e.symm
          simp [hb, this]
    · cases h

/-- A placement goes in when there is room. -/
theorem queuePlace_room {q : List (Addr × Word)} (a : Addr) (v : Word) (h : q.length < 16) :
    ∃ r, queuePlace q a v = some r ∧ r.length ≤ q.length + 1 := by
  unfold queuePlace
  split
  · exact ⟨_, rfl, by simp [queueReplace]⟩
  · exact ⟨_, rfl, by simp⟩

end Sys2Proof.Laws
end

