-- ==== Sys2Proof/Laws/Room.lean ====
section
/-! SUPPORT. With room in the update queue a decision of placements is carried out at once, and its words then
have the placed values. -/

namespace Sys2Proof.Laws

open Sys2Proof.Machine

/-- A placing act carried out; with room in the queue no placement waits. -/
def placeAct (p : Part) : Act → Part
  | .place x v => (placeWord p x v).getD p
  | .sync w => (placeWord p (partWord p w).1 (partWord p w).2).getD p
  | .finish n => p.finish n
  | _ => p

theorem serveLane_withWork (a : Addr) (p : Part) (w : Vector Task 19) (n : Lane) :
    serveLane a { p with work := w } n = { serveLane a p n with work := w } := by
  unfold serveLane
  have e1 : Part.laneRead { p with work := w } n = p.laneRead n := rfl
  have e2 : Part.passedWrite { p with work := w } n = p.passedWrite n := rfl
  rw [e1, e2]
  split
  · rfl
  · cases p.passedWrite n with
    | none => rfl
    | some x =>
      obtain ⟨b, v⟩ := x
      dsimp only
      split
      · unfold Part.passDone
        have e3 : Part.treatment { { p with work := w } with queue := queueReplace p.queue a v } n a
            = Part.treatment { p with queue := queueReplace p.queue a v } n a := rfl
        rw [e3]
        generalize Part.treatment { p with queue := queueReplace p.queue a v } n a = t
        cases t <;> rfl
      · rfl

theorem foldl_withWork {f : Part → Lane → Part}
    (hf : ∀ p (w : Vector Task 19) n, f { p with work := w } n = { f p n with work := w }) (l : List Lane) (p : Part)
    (w : Vector Task 19) : l.foldl f { p with work := w } = { l.foldl f p with work := w } := by
  induction l generalizing p with
  | nil => rfl
  | cons n l ih => simp only [List.foldl_cons]; rw [hf]; exact ih _

theorem placeWord_withWork (p : Part) (w : Vector Task 19) (a : Addr) (v : Word) :
    placeWord { p with work := w } a v = (placeWord p a v).map fun q => { q with work := w } := by
  unfold placeWord
  have e : ({ p with work := w } : Part).queue = p.queue := rfl
  rw [e]
  cases queuePlace p.queue a v with
  | none => rfl
  | some q =>
    dsimp only
    split
    · rfl
    · simp only [Option.map_some, Option.some.injEq]
      exact foldl_withWork (serveLane_withWork a) _ { p with queue := q } w

theorem serveLane_length (a : Addr) (p : Part) (n : Lane) : (serveLane a p n).queue.length = p.queue.length := by
  unfold serveLane
  split
  · rfl
  · split
    · split
      · unfold Part.passDone; split <;> simp [queueReplace, Part.finish, Part.setLane]
      · rfl
    · rfl

theorem placeWord_room (p : Part) (a : Addr) (v : Word) (h : p.queue.length < 16) :
    ∃ q, placeWord p a v = some q ∧ q.queue.length ≤ p.queue.length + 1 := by
  obtain ⟨r, hr, hl⟩ := queuePlace_room a v h
  unfold placeWord
  rw [hr]
  refine ⟨_, rfl, ?_⟩
  split
  · exact hl
  · have key : ∀ (l : List Lane) (p : Part), (l.foldl (serveLane a) p).queue.length = p.queue.length := by
      intro l
      induction l with
      | nil => intro p; rfl
      | cons n l ih => intro p; exact (ih _).trans (serveLane_length a p n)
    rw [key]
    exact hl

theorem placeAct_length (p : Part) (a : Act) (h : p.queue.length < 16) :
    (placeAct p a).queue.length ≤ p.queue.length + 1 := by
  unfold placeAct
  split
  · obtain ⟨q, hq, hl⟩ := placeWord_room p ‹Addr› ‹Word› h
    rw [hq]; exact hl
  · obtain ⟨q, hq, hl⟩ := placeWord_room p (partWord p ‹PartWord›).1 (partWord p ‹PartWord›).2 h
    rw [hq]; exact hl
  · exact Nat.le_succ _
  · exact Nat.le_succ _

theorem partWord_withWork (p : Part) (w : Vector Task 19) (k : PartWord) :
    partWord { p with work := w } k = partWord p k := by cases k <;> rfl

theorem placeAct_withWork (p : Part) (w : Vector Task 19) (a : Act) (h : p.queue.length < 16) :
    placeAct { p with work := w } a = { placeAct p a with work := w } := by
  unfold placeAct
  split
  · rw [placeWord_withWork]
    obtain ⟨q, hq, _⟩ := placeWord_room p ‹Addr› ‹Word› h
    rw [hq]; rfl
  · rw [partWord_withWork, placeWord_withWork]
    obtain ⟨q, hq, _⟩ := placeWord_room p (partWord p ‹PartWord›).1 (partWord p ‹PartWord›).2 h
    rw [hq]; rfl
  · rfl
  · rfl

theorem take_placeAct (p : Part) (a : Act) (ha : Placing a) (h : p.queue.length < 16) :
    take p a = some { part := placeAct p a } := by
  unfold take
  rw [readAddr_light (light_of_placing ha)]
  cases a <;> try exact False.elim ha
  · obtain ⟨q, hq, _⟩ := placeWord_room p ‹Addr› ‹Word› h
    simp only [placeAct, hq]; rfl
  · obtain ⟨q, hq, _⟩ := placeWord_room p (partWord p ‹PartWord›).1 (partWord p ‹PartWord›).2 h
    simp only [placeAct, hq]; rfl
  · rfl

theorem upd_upd {α : Type} {n : Nat} (v : Vector α n) (i : Fin n) (f g : α → α) :
    upd (upd v i f) i g = upd v i (fun x => g (f x)) := by
  apply Vector.ext
  intro k hk
  have := upd_get (upd v i f) i ⟨k, hk⟩ g
  have h2 := upd_get v i ⟨k, hk⟩ f
  have h3 := upd_get v i ⟨k, hk⟩ (fun x => g (f x))
  simp only [Fin.getElem_fin] at this h2 h3
  rw [this, h2, h3]
  split <;> rfl

theorem setTask_setTask (p : Part) (b : Block) (s t : Task) : (p.setTask b s).setTask b t = p.setTask b t := by
  unfold Part.setTask
  simp only [upd_upd]

/-- A decision of placing acts alone, with room for each. -/
theorem drive_placing (acts : List Act) (n : Nat) (b : Block) (parts : Bool) (p : Part)
    (ht : p.task b = ⟨acts, parts⟩) (hl : ∀ a ∈ acts, Placing a) (hn : acts.length < n)
    (hr : p.queue.length + acts.length ≤ 16) :
    drive n b p = (acts.foldl placeAct p).setTask b ⟨[], parts⟩ := by
  induction acts generalizing n p with
  | nil =>
    obtain ⟨m, rfl⟩ : ∃ m, n = m + 1 := ⟨n - 1, by simp at hn; omega⟩
    unfold drive
    rw [ht]
    unfold Part.setTask
    have : upd p.work (blockIx b) (fun _ => ⟨[], parts⟩) = p.work := by
      apply Vector.ext
      intro k hk
      have := upd_get p.work (blockIx b) ⟨k, hk⟩ (fun _ => ⟨[], parts⟩)
      simp only [Fin.getElem_fin] at this
      rw [this]
      split
      · rename_i e
        have : p.work[(blockIx b).val] = ⟨[], parts⟩ := ht
        rw [← this]; simp [← e]
      · rfl
    simp only [List.foldl_nil, this]
  | cons a acts ih =>
    obtain ⟨m, rfl⟩ : ∃ m, n = m + 1 := ⟨n - 1, by simp at hn; omega⟩
    have ha : Placing a := hl a (by simp)
    simp only [List.length_cons] at hn hr
    have hq : p.queue.length < 16 := by omega
    have hs : a.ownRow = false ∧ (parts && a.suspends p) = false := by
      cases a <;> first | exact False.elim ha | (refine ⟨rfl, ?_⟩; cases parts <;> rfl)
    unfold drive
    rw [ht]
    dsimp only
    rw [hs.1, hs.2]
    have hk : take (p.setTask b ⟨acts, parts⟩) a
        = some { part := placeAct (p.setTask b ⟨acts, parts⟩) a } := take_placeAct _ a ha hq
    rw [hk]
    simp only [Bool.or_self, Bool.false_eq_true, if_false, Took.carry, List.foldl_nil, List.nil_append]
    have hp : placeAct (p.setTask b ⟨acts, parts⟩) a = (placeAct p a).setTask b ⟨acts, parts⟩ := by
      unfold Part.setTask
      rw [placeAct_withWork _ _ _ hq]
      have hw : (placeAct p a).work = p.work := by
        have := (take_placing ha (take_placeAct p a ha hq)).2.1
        exact this
      rw [hw]
    rw [hp]
    simp only [task_setTask_same, setTask_setTask]
    rw [ih m ((placeAct p a).setTask b ⟨acts, parts⟩) (task_setTask_same ..) (fun x hx => hl x (by simp [hx]))
      (by omega) (by
        have := placeAct_length p a hq
        simp only [setTask_queue]; omega)]
    have key : ∀ (l : List Act) (q : Part), (∀ x ∈ l, Placing x) → q.queue.length + l.length ≤ 16 →
        ∀ s t, (l.foldl placeAct (q.setTask b s)).setTask b t = (l.foldl placeAct q).setTask b t := by
      intro l
      induction l with
      | nil => intro q _ _ s t; exact setTask_setTask ..
      | cons x l ih2 =>
        intro q hx hq2 s t
        simp only [List.length_cons] at hq2
        simp only [List.foldl_cons]
        have hq3 : q.queue.length < 16 := by omega
        have e : placeAct (q.setTask b s) x = (placeAct q x).setTask b s := by
          unfold Part.setTask
          rw [placeAct_withWork _ _ _ hq3]
          have hw : (placeAct q x).work = q.work :=
            (take_placing (hx x (by simp)) (take_placeAct q x (hx x (by simp)) hq3)).2.1
          rw [hw]
        rw [e]
        exact ih2 _ (fun y hy => hx y (by simp [hy]))
          (by have := placeAct_length q x hq3; omega) s t
    exact key acts (placeAct p a) (fun x hx => hl x (by simp [hx]))
      (by have := placeAct_length p a hq; omega) _ _

/-- A free block takes a request whose acts are placements, with room for each, while no block waits. -/
theorem decideAt_placing (b : Block) (pace : Pace) (p : Part) (acts : List Act) (hp : p.waiters = [])
    (hl : ∀ a ∈ acts, Placing a) (hn : acts.length ≤ 16) (hr : p.queue.length + acts.length ≤ 16) :
    settle (decideAt b pace (p, acts)) = (acts.foldl placeAct p).setTask b ⟨[], pace == .parts⟩ := by
  have h1 : decideAt b pace (p, acts)
      = (acts.foldl placeAct (p.startAt b pace acts)).setTask b ⟨[], pace == .parts⟩ := by
    unfold decideAt run
    exact drive_placing acts fuel b _ _ (task_setTask_same ..) hl (by unfold fuel; omega) hr
  have key : ∀ (l : List Act) (q : Part), (∀ x ∈ l, Placing x) → q.queue.length + l.length ≤ 16 →
      ∀ s t, (l.foldl placeAct (q.setTask b s)).setTask b t = (l.foldl placeAct q).setTask b t := by
    intro l
    induction l with
    | nil => intro q _ _ s t; exact setTask_setTask ..
    | cons x l ih2 =>
      intro q hx hq2 s t
      simp only [List.length_cons] at hq2
      simp only [List.foldl_cons]
      have hq3 : q.queue.length < 16 := by omega
      have e : placeAct (q.setTask b s) x = (placeAct q x).setTask b s := by
        unfold Part.setTask
        rw [placeAct_withWork _ _ _ hq3]
        have hw : (placeAct q x).work = q.work :=
          (take_placing (hx x (by simp)) (take_placeAct q x (hx x (by simp)) hq3)).2.1
        rw [hw]
      rw [e]
      exact ih2 _ (fun y hy => hx y (by simp [hy]))
        (by have := placeAct_length q x hq3; omega) s t
  rw [h1]
  have h2 : (acts.foldl placeAct (p.startAt b pace acts)).setTask b ⟨[], pace == .parts⟩
      = (acts.foldl placeAct p).setTask b ⟨[], pace == .parts⟩ := key acts p hl hr _ _
  rw [h2]
  apply settle_calm
  have wk : ∀ (l : List Act) (q : Part), (∀ x ∈ l, Placing x) → q.queue.length + l.length ≤ 16 →
      (l.foldl placeAct q).waiters = q.waiters := by
    intro l
    induction l with
    | nil => intro q _ _; rfl
    | cons x l ih2 =>
      intro q hx hq2
      simp only [List.length_cons] at hq2
      have hq3 : q.queue.length < 16 := by omega
      have e := (take_placing (hx x (by simp)) (take_placeAct q x (hx x (by simp)) hq3)).2.2.1
      simp only [List.foldl_cons]
      rw [ih2 _ (fun y hy => hx y (by simp [hy])) (by have := placeAct_length q x hq3; omega)]
      exact e
  simp only [setTask_waiters]
  rw [wk acts p hl hr, hp]

theorem passedWrite_of_lane {p q : Part} (n : Lane) (h1 : q.resetLow = p.resetLow) (h2 : q.mode = p.mode)
    (h3 : (q.lane n).access = (p.lane n).access) (h4 : ∀ a, q.treatment n a = p.treatment n a) :
    q.passedWrite n = p.passedWrite n := by
  simp only [Part.passedWrite, Part.passingWrite, Part.laneWrite, h1, h2, h3, h4]

theorem passedWrite_free {p : Part} {n : Lane} (h : (p.lane n).access = none) : p.passedWrite n = none := by
  unfold Part.passedWrite Part.laneWrite Part.passingWrite
  rw [h]
  split
  · rename_i x; revert x; split <;> simp
  · split <;> rfl

/-- A placement's value is the value that the queue then holds for its word, when no lane presents a passed write
of it. -/
theorem placeWord_find {p q : Part} {a : Addr} {v : Word} (h : placeWord p a v = some q)
    (hn : ∀ n w, p.passedWrite n ≠ some (a, w)) (b : Addr) :
    queueFind q.queue b = if b = a then some v else queueFind p.queue b := by
  unfold placeWord at h
  split at h
  · cases h
  · rename_i r hr
    have hs := (queuePlace_spec hr).2
    cases h
    split
    · exact hs b
    · have key : ∀ (l : List Lane) (p : Part), (∀ n w, p.passedWrite n ≠ some (a, w)) →
          (l.foldl (serveLane a) p).queue = p.queue := by
        intro l
        induction l with
        | nil => intro p _; rfl
        | cons n l ih =>
          intro p hp
          simp only [List.foldl_cons]
          unfold serveLane
          split
          · refine ih _ fun m w => ?_
            by_cases hm : m = n
            · subst hm
              rw [passedWrite_free (by unfold Part.finishRead; rw [lane_setLane]; simp)]
              simp
            · have e : (p.finishRead n ((queueFind p.queue a).getD 0)).passedWrite m = p.passedWrite m :=
                passedWrite_of_lane m rfl rfl
                  (by unfold Part.finishRead; rw [lane_setLane, if_neg hm]) (fun _ => rfl)
              rw [e]
              exact hp m w
          · split
            · rename_i x w hx
              split
              · rename_i e
                subst e
                exact absurd hx (hp n w)
              · exact ih p hp
            · exact ih p hp
      have e := key (List.finRange 6) { p with queue := r } hn
      rw [e]
      exact hs b

end Sys2Proof.Laws
end

