-- ==== Sys2Proof/Laws/LaneDecisions.lean ====
section
/-! SUPPORT. A lane write at its owning block: what taking and refusing it leave, and how its placements end. -/

namespace Sys2Proof.Laws

open Sys2Proof.Machine

/-! ### The write that a lane presents -/

theorem laneWrite_access {p : Part} {n : Lane} {a : Addr} {v : Word} (h : p.laneWrite n = some (a, v)) :
    (p.lane n).access = some ⟨a, some v, false, false⟩ ∧ p.resetLow = false ∧ p.mode ≠ .checking := by
  unfold Part.laneWrite at h
  split at h
  · cases h
  · rename_i hc
    split at h
    · rename_i hx
      cases h
      refine ⟨hx, ?_, fun e => hc (by simp [e])⟩
      by_contra e
      exact hc (by simp [e])
    · cases h

theorem onWrite_eq {p : Part} {n : Lane} {a : Addr} {v : Word} (h : p.laneWrite n = some (a, v))
    (f : Addr → Word → Treatment → Part → Part) : onWrite n f p = f a v (p.treatment n a) p := by
  unfold onWrite; rw [h]

/-- A treatment other than a pass, a capture or the header's close is one of SWEEPING and RUNNING. -/
theorem accepted_of_treatment {p : Part} {n : Lane} {a : Addr} {t : Treatment} (h : p.treatment n a = t)
    (h1 : t ≠ .pass) (h2 : ∀ k, t ≠ .capture k) (h3 : t ≠ .headerClose) : p.accepted = true := by
  unfold Part.treatment treatTransparent at h
  split at h
  · assumption
  · split at h
    · exact absurd h.symm h3
    · split at h
      · exact absurd h.symm (h2 _)
      · exact absurd h.symm h1

/-! ### Taking and refusing -/

theorem lane_markDecided (p : Part) (n m : Lane) :
    (p.markDecided n).lane m = if m = n then
      { p.lane n with access := (p.lane n).access.map fun x => { x with decided := true } } else p.lane m := by
  have key : (p.markDecided n).lane m
      = (p.setLane n fun l => { l with access := l.access.map fun x => { x with decided := true } }).lane m := by
    unfold Part.markDecided; dsimp only; split <;> rfl
  rw [key, lane_setLane]
  by_cases h : m = n
  · subst h; simp
  · simp [h]

theorem markDecided_eq (p : Part) (n : Lane) :
    p.markDecided n = { p.afterWrite n with lanes := (p.markDecided n).lanes } := by
  unfold Part.markDecided Part.afterWrite; dsimp only; split <;> rfl

theorem placed_markDecided (p : Part) (n : Lane) : Part.Placed (p.afterWrite n) (p.markDecided n) := by
  refine ⟨?_, fun m => ?_⟩
  · have h := markDecided_eq p n
    have h1 : (p.markDecided n).queue = (p.afterWrite n).queue := by rw [h]
    have h2 : (p.markDecided n).waiters = (p.afterWrite n).waiters := by rw [h]
    have h3 : (p.markDecided n).work = (p.afterWrite n).work := by rw [h]
    rw [h1, h2, h3]; exact h
  · have e : (p.afterWrite n).lane m = p.lane m := by unfold Part.afterWrite; split <;> rfl
    rw [lane_markDecided, e]
    split
    · rename_i h; subst h; rfl
    · rfl

theorem afterWrite_waiters (p : Part) (n : Lane) : (p.afterWrite n).waiters = p.waiters := by
  unfold Part.afterWrite; split <;> rfl
theorem afterWrite_queue (p : Part) (n : Lane) : (p.afterWrite n).queue = p.queue := by
  unfold Part.afterWrite; split <;> rfl
theorem afterWrite_work (p : Part) (n : Lane) : (p.afterWrite n).work = p.work := by
  unfold Part.afterWrite; split <;> rfl
theorem markDecided_accepted (p : Part) (n : Lane) : (p.markDecided n).accepted = p.accepted := by
  unfold Part.accepted Part.mode; rw [markDecided_setup]

/-- A refused write, handed to its lane interface (R159). -/
theorem refuses_handRefusal {p : Part} {n : Lane} {a : Addr} {v : Word} (h : p.laneWrite n = some (a, v))
    (hp : p.waiters = []) (r : Reason) : p.Refuses (settle (p.handRefusal n r)) n a r := by
  have hw : (p.handRefusal n r).waiters = [] := by rw [handRefusal_waiters]; exact hp
  rw [settle_calm _ hw]
  have ha : (((p.lane n).access.map (·.addr)).getD 0) = a := by rw [(laneWrite_access h).1]; rfl
  refine ⟨?_, fun m => ?_, fun b => ?_⟩
  · have e := markDecided_eq p n
    have : p.handRefusal n r = { p.markDecided n with work := (p.handRefusal n r).work } := rfl
    rw [this]
    rw [e]
  · exact lane_markDecided p n m
  · unfold Part.handRefusal
    rw [ha]
    unfold Part.post
    rw [task_setTask]
    have e : ∀ b, (p.markDecided n).task b = p.task b := fun b => task_of_work (markDecided_work p n) b
    split
    · rename_i hb; subst hb; rw [e]
    · rw [e]

theorem decideLane_ok {p : Part} {b : Block} (h : p.busy b = false) (pace : Pace) (n : Lane) (d : Decided) :
    decideLane b pace n p (.ok d) = decideAt b pace (d.1.markDecided n, d.2) := by
  unfold decideLane; simp [h]

theorem decideLane_error {p : Part} {b : Block} (h : p.busy b = false) (pace : Pace) (n : Lane) (e : Reason) :
    decideLane b pace n p (.error e) = p.handRefusal n e := by
  unfold decideLane; simp [h]

/-- A taken lane write whose decision only places words and completes accesses. -/
theorem taken_placed {p : Part} (b : Block) (pace : Pace) (n : Lane) (acts : List Act) (hp : p.waiters = [])
    (ha : p.accepted = true) (hl : ∀ a ∈ acts, Placing a) :
    Part.Placed (p.afterWrite n) (settle (decideAt b pace (p.markDecided n, acts))) :=
  placed_trans (placed_markDecided p n)
    (decideAt_placed b pace acts (by rw [markDecided_waiters]; exact hp) (by rw [markDecided_accepted]; exact ha) hl)

/-- A taken lane write whose decision also sets flags. -/
theorem taken_flagged {p : Part} (b : Block) (pace : Pace) (n : Lane) (acts : List Act) (hp : p.waiters = [])
    (ha : p.accepted = true) (hl : ∀ a ∈ acts, Light a) :
    Part.Flagged (p.afterWrite n) (settle (decideAt b pace (p.markDecided n, acts))) :=
  flagged_trans (flagged_of_placed (placed_markDecided p n))
    (decideAt_flagged b pace acts (by rw [markDecided_waiters]; exact hp) (by rw [markDecided_accepted]; exact ha) hl)

/-! ### Placements that are not undone -/

/-- Placing acts begin no access: a free lane stays free. -/
theorem placeWord_free {p q : Part} {a : Addr} {v : Word} (h : placeWord p a v = some q) (n : Lane)
    (hn : (p.lane n).access = none) : (q.lane n).access = none := by
  unfold placeWord at h
  split at h
  · cases h
  · cases h
    split
    · exact hn
    · have key : ∀ (l : List Lane) (p : Part), (p.lane n).access = none →
          ((l.foldl (serveLane a) p).lane n).access = none := by
        intro l
        induction l with
        | nil => intro p hn; exact hn
        | cons m l ih =>
          intro p hn
          refine ih _ ?_
          have fin : ∀ (q : Part) (f : LaneIf → LaneIf), (∀ l, (f l).access = none) → (q.lane n).access = none →
              ((q.setLane m f).lane n).access = none := by
            intro q f hf hq
            rw [lane_setLane]
            split
            · exact hf _
            · exact hq
          unfold serveLane
          split
          · exact fin _ _ (fun _ => rfl) hn
          · split
            · split
              · unfold Part.passDone
                dsimp only
                split <;> exact fin _ _ (fun _ => rfl) hn
              · exact hn
            · exact hn
      exact key _ _ hn

theorem placeAct_free (p : Part) (a : Act) (n : Lane) (hn : (p.lane n).access = none) :
    ((placeAct p a).lane n).access = none := by
  unfold placeAct
  split
  · cases h : placeWord p ‹Addr› ‹Word› with
    | none => exact hn
    | some q => exact placeWord_free h n hn
  · cases h : placeWord p (partWord p ‹PartWord›).1 (partWord p ‹PartWord›).2 with
    | none => exact hn
    | some q => exact placeWord_free h n hn
  · unfold Part.finish
    rw [lane_setLane]
    split
    · rfl
    · exact hn
  · exact hn

theorem placeActs_free (acts : List Act) (p : Part) (n : Lane) (hn : (p.lane n).access = none) :
    ((acts.foldl placeAct p).lane n).access = none := by
  induction acts generalizing p with
  | nil => exact hn
  | cons a acts ih => exact ih _ (placeAct_free p a n hn)

/-- The access that a decision completes is over when its placements are made. -/
theorem placeActs_finish (acts : List Act) (p : Part) (n : Lane) (h : .finish n ∈ acts) :
    ((acts.foldl placeAct p).lane n).access = none := by
  induction acts generalizing p with
  | nil => cases h
  | cons a acts ih =>
    rcases List.mem_cons.1 h with h | h
    · subst h
      refine placeActs_free acts _ n ?_
      show ((p.finish n).lane n).access = none
      unfold Part.finish
      rw [lane_setLane]; simp
    · exact ih _ h

end Sys2Proof.Laws
end

