-- ==== Sys2Proof/Laws/Memory.lean ====
section
/-! SUPPORT. Foyer memory: a write changes one word and keeps the canonical form. -/

namespace Sys2Proof.Laws

open Sys2Proof.Machine

/-- Every cell lies above `k`. -/
def Above (k : Nat) (m : Memory) : Prop := ∀ c ∈ m, k < c.1

theorem read_above {k a : Nat} {m : Memory} (h : Above k m) (ha : a ≤ k) : Memory.read m a = 0 := by
  induction m with
  | nil => rfl
  | cons c m ih =>
    have hc := h c (by simp)
    have : a ≠ c.1 := by omega
    simp only [Memory.read, this, if_false]
    exact ih fun x hx => h x (by simp [hx])

/-- What memory reads after a write: the value at the written word, and what it read before elsewhere. -/
theorem read_write (m : Memory) (a b : Nat) (v : Word) (h : Memory.wf m) :
    Memory.read (Memory.write m a v) b = if b = a then v else Memory.read m b := by
  induction m with
  | nil =>
    unfold Memory.write
    split
    · subst_vars; simp [Memory.read]
    · simp [Memory.read]
  | cons c m ih =>
    obtain ⟨x, w⟩ := c
    have hm : Memory.wf m := ⟨h.1.tail, fun c hc => h.2 c (by simp [hc])⟩
    have hab : Above x m := fun c hc => (List.pairwise_cons.1 h.1).1 c hc
    by_cases hb : b = a
    · subst hb
      simp only [Memory.write, if_true]
      by_cases h1 : b < x
      · by_cases h2 : v = 0
        · have hne : b ≠ x := by omega
          simp only [h1, h2, if_true, Memory.read, hne, if_false]
          exact read_above hab (by omega)
        · simp only [h1, if_true, if_neg h2, Memory.read]
      · by_cases h3 : b = x
        · subst h3
          by_cases h4 : v = 0
          · simp only [lt_irrefl, if_false, if_true, h4]
            exact read_above hab le_rfl
          · simp only [lt_irrefl, if_false, if_true, if_neg h4, Memory.read]
        · simp only [h1, h3, if_false, Memory.read]
          simpa using ih hm
    · simp only [Memory.write, hb, if_false]
      by_cases h1 : a < x
      · by_cases h2 : v = 0
        · simp only [h1, if_true, h2]
        · simp only [h1, if_true, if_neg h2, Memory.read, hb, if_false]
      · by_cases h3 : a = x
        · subst h3
          by_cases h4 : v = 0
          · simp only [lt_irrefl, if_false, if_true, h4, Memory.read, hb]
          · simp only [lt_irrefl, if_false, if_true, if_neg h4, Memory.read, hb]
        · simp only [h1, h3, if_false, Memory.read]
          split
          · rfl
          · simpa [hb] using ih hm

theorem write_above {k a : Nat} {m : Memory} (v : Word) (h : Above k m) (ha : k < a) :
    Above k (Memory.write m a v) := by
  induction m with
  | nil =>
    unfold Memory.write
    split
    · intro c hc; simp at hc
    · intro c hc; simp at hc; subst hc; exact ha
  | cons c m ih =>
    obtain ⟨x, w⟩ := c
    have hx : k < x := h (x, w) (by simp)
    have hm : Above k m := fun c hc => h c (by simp [hc])
    simp only [Memory.write]
    split_ifs
    · exact h
    · intro c hc
      rcases List.mem_cons.1 hc with rfl | hc
      · exact ha
      · exact h c hc
    · exact hm
    · intro c hc
      rcases List.mem_cons.1 hc with rfl | hc
      · exact ha
      · exact hm c hc
    · intro c hc
      rcases List.mem_cons.1 hc with rfl | hc
      · exact hx
      · exact ih hm c hc

/-- A write keeps the canonical form. -/
theorem write_wf {m : Memory} (h : Memory.wf m) (a : Nat) (v : Word) (ha : a < 262144) :
    Memory.wf (Memory.write m a v) := by
  induction m with
  | nil =>
    unfold Memory.write
    split
    · exact h
    · refine ⟨by simp, ?_⟩
      intro c hc; simp at hc; subst hc; exact ⟨by assumption, ha⟩
  | cons c m ih =>
    obtain ⟨x, w⟩ := c
    have hm : Memory.wf m := ⟨h.1.tail, fun c hc => h.2 c (by simp [hc])⟩
    have hab : ∀ c ∈ m, x < c.1 := fun c hc => (List.pairwise_cons.1 h.1).1 c hc
    simp only [Memory.write]
    split_ifs with h1 h2 h3 h4
    · exact h
    · refine ⟨List.pairwise_cons.2 ⟨?_, h.1⟩, ?_⟩
      · intro c hc
        rcases List.mem_cons.1 hc with rfl | hc
        · exact h1
        · have := hab c hc; show a < c.1; omega
      · intro c hc
        rcases List.mem_cons.1 hc with rfl | hc
        · exact ⟨h2, ha⟩
        · exact h.2 c hc
    · exact hm
    · subst h3
      refine ⟨List.pairwise_cons.2 ⟨hab, hm.1⟩, ?_⟩
      intro c hc
      rcases List.mem_cons.1 hc with rfl | hc
      · exact ⟨h4, ha⟩
      · exact hm.2 c hc
    · have key : Memory.wf (Memory.write m a v) := ih hm
      refine ⟨List.pairwise_cons.2 ⟨?_, key.1⟩, ?_⟩
      · exact write_above v hab (by omega)
      · intro c hc
        rcases List.mem_cons.1 hc with rfl | hc
        · exact h.2 _ (by simp)
        · exact key.2 c hc

/-- The memory made of any cells is in canonical form. -/
theorem ofCells_wf (cells : List (Addr × Word)) : Memory.wf (Memory.ofCells cells) := by
  have key : ∀ (cs : List (Addr × Word)) (m : Memory), Memory.wf m →
      Memory.wf (cs.foldl (fun m c => Memory.write m c.1.toNat c.2) m) := by
    intro cs
    induction cs with
    | nil => intro m h; exact h
    | cons c cs ih => intro m h; exact ih _ (write_wf h _ _ c.1.isLt)
  exact key cells [] ⟨List.Pairwise.nil, by simp⟩

end Sys2Proof.Laws
end

