-- ==== Sys2Proof/Laws/PerInstr.lean ====
section
/-! SUPPORT. The bounds of the operands of a well-formed command, one lemma a constructor. -/

namespace Sys2Proof.Laws.OperandBounds

/-- What well-formedness says of the operands: a bit position of a byte time is 0 to 7; a POLL row's command byte
is none of the three that have rows of their own; an asker is a block that makes the requests of the row. -/
def Statement (i : Instr) : Prop :=
  i.wellFormed = true →
  match i with
  | .poll b c => c.bits < 8 ∧ b ≠ 0x22 ∧ b ≠ 0x33 ∧ b ≠ 0x44
  | .fetch c | .report c | .abandon c => c.bits < 8
  | .holdQuestion b | .logReserve b | .logHandBack b => b = .order ∨ b = .shows
  | .logWriteReserved b => b = .order ∨ b = .directory
  | .logWriteFree b => b = .order ∨ b = .directory ∨ b = .hold
  | .setRequest b => b ≠ .attention
  | _ => True

theorem powerOn : Statement .powerOn := fun _ => trivial
theorem resetPin : Statement .resetPin := fun _ => trivial
theorem resetRelease : Statement .resetRelease := fun _ => trivial
theorem eighthEvent : Statement .eighthEvent := fun _ => trivial
theorem secondEvent : Statement .secondEvent := fun _ => trivial
theorem minuteEvent : Statement .minuteEvent := fun _ => trivial
theorem laneRead (n : Lane) : Statement (.laneRead n) := fun _ => trivial
theorem passedWrite (n : Lane) : Statement (.passedWrite n) := fun _ => trivial
theorem ownedWrite (n : Lane) : Statement (.ownedWrite n) := fun _ => trivial
theorem portGrant : Statement .portGrant := fun _ => trivial
theorem updateDrain : Statement .updateDrain := fun _ => trivial
theorem clockSetDay (n : Lane) : Statement (.clockSetDay n) := fun _ => trivial
theorem clockSetMinute (n : Lane) : Statement (.clockSetMinute n) := fun _ => trivial
theorem takeWrite (n : Lane) : Statement (.takeWrite n) := fun _ => trivial
theorem showRecordWrite (n : Lane) : Statement (.showRecordWrite n) := fun _ => trivial
theorem openShow (n : Lane) : Statement (.openShow n) := fun _ => trivial
theorem cut (n : Lane) : Statement (.cut n) := fun _ => trivial
theorem retire (n : Lane) (pace : Pace) : Statement (.retire n pace) := fun _ => trivial
theorem priceWrite (n : Lane) : Statement (.priceWrite n) := fun _ => trivial
theorem claim (n : Lane) : Statement (.claim n) := fun _ => trivial
theorem seatRelease (n : Lane) : Statement (.seatRelease n) := fun _ => trivial
theorem edit (n : Lane) (pace : Pace) : Statement (.edit n pace) := fun _ => trivial
theorem orderRecordWrite (n : Lane) : Statement (.orderRecordWrite n) := fun _ => trivial
theorem spoolWrite (n : Lane) : Statement (.spoolWrite n) := fun _ => trivial
theorem close (n : Lane) (pace : Pace) : Statement (.close n pace) := fun _ => trivial
theorem cancel (n : Lane) (pace : Pace) : Statement (.cancel n pace) := fun _ => trivial
theorem release (n : Lane) (pace : Pace) : Statement (.release n pace) := fun _ => trivial
theorem reprint (n : Lane) (pace : Pace) : Statement (.reprint n pace) := fun _ => trivial
theorem forceDone (n : Lane) (pace : Pace) : Statement (.forceDone n pace) := fun _ => trivial
theorem redeem (n : Lane) (pace : Pace) : Statement (.redeem n pace) := fun _ => trivial
theorem flagClear (n : Lane) : Statement (.flagClear n) := fun _ => trivial
theorem maskWrite (n : Lane) : Statement (.maskWrite n) := fun _ => trivial
theorem enable (n : Lane) : Statement (.enable n) := fun _ => trivial
theorem refresh (n : Lane) : Statement (.refresh n) := fun _ => trivial
theorem rejoin (n : Lane) : Statement (.rejoin n) := fun _ => trivial
theorem headerWordWrite (n : Lane) : Statement (.headerWordWrite n) := fun _ => trivial
theorem accept (n : Lane) : Statement (.accept n) := fun _ => trivial
theorem withdraw (n : Lane) : Statement (.withdraw n) := fun _ => trivial
theorem expiryRemoval : Statement .expiryRemoval := fun _ => trivial
theorem warningPass : Statement .warningPass := fun _ => trivial
theorem watchNotice (n : Lane) : Statement (.watchNotice n) := fun _ => trivial
theorem lapse (n : Lane) : Statement (.lapse n) := fun _ => trivial
theorem darkRelease (sh : ShowNo) : Statement (.darkRelease sh) := fun _ => trivial
theorem lapseRelease (n : Lane) : Statement (.lapseRelease n) := fun _ => trivial
theorem slotTeardown (n : Lane) (pace : Pace) : Statement (.slotTeardown n pace) := fun _ => trivial
theorem holdQuestion (asker : Block) : Statement (.holdQuestion asker) := by
  cases asker <;> simp [Statement, Instr.wellFormed, asksHold]
theorem pendRequest : Statement .pendRequest := fun _ => trivial
theorem saleRequest : Statement .saleRequest := fun _ => trivial
theorem returnRequest : Statement .returnRequest := fun _ => trivial
theorem dropRequest : Statement .dropRequest := fun _ => trivial
theorem tenderTimeout (pace : Pace) : Statement (.tenderTimeout pace) := fun _ => trivial
theorem quietSpell : Statement .quietSpell := fun _ => trivial
theorem transactionStart : Statement .transactionStart := fun _ => trivial
theorem transactionEnd : Statement .transactionEnd := fun _ => trivial
theorem poll (command : Byte) (clk : Clocking) : Statement (.poll command clk) := by
  intro h
  simp only [Instr.wellFormed, ownRowCommand, Clocking.wellFormed, Bool.and_eq_true, Bool.not_eq_true',
    Bool.or_eq_false_iff, beq_eq_false_iff_ne, decide_eq_true_eq] at h
  exact ⟨h.2, h.1.1.1, h.1.1.2, h.1.2⟩
theorem fetch (clk : Clocking) : Statement (.fetch clk) := by
  intro h
  simpa [Instr.wellFormed, Clocking.wellFormed] using h
theorem report (clk : Clocking) : Statement (.report clk) := by
  intro h
  simpa [Instr.wellFormed, Clocking.wellFormed] using h
theorem abandon (clk : Clocking) : Statement (.abandon clk) := by
  intro h
  simpa [Instr.wellFormed, Clocking.wellFormed] using h
theorem linkRequestSettle : Statement .linkRequestSettle := fun _ => trivial
theorem fetchTake (pace : Pace) : Statement (.fetchTake pace) := fun _ => trivial
theorem takenResult (pace : Pace) : Statement (.takenResult pace) := fun _ => trivial
theorem lateResult (pace : Pace) : Statement (.lateResult pace) := fun _ => trivial
theorem takenAbandon (pace : Pace) : Statement (.takenAbandon pace) := fun _ => trivial
theorem jobHandoff : Statement .jobHandoff := fun _ => trivial
theorem jobStart (p : Printer) : Statement (.jobStart p) := fun _ => trivial
theorem spoolRead : Statement .spoolRead := fun _ => trivial
theorem blockFill (p : Printer) : Statement (.blockFill p) := fun _ => trivial
theorem dataBlock (p : Printer) (answer : Option Byte) : Statement (.dataBlock p answer) := fun _ => trivial
theorem progressRequest (p : Printer) : Statement (.progressRequest p) := fun _ => trivial
theorem cutBlock (p : Printer) (answer : Option Byte) : Statement (.cutBlock p answer) := fun _ => trivial
theorem statusBlock (p : Printer) (answer : Option Byte) : Statement (.statusBlock p answer) := fun _ => trivial
theorem openingSweep : Statement .openingSweep := fun _ => trivial
theorem sweepEnd : Statement .sweepEnd := fun _ => trivial
theorem voucherClear : Statement .voucherClear := fun _ => trivial
theorem voucherRebuild : Statement .voucherRebuild := fun _ => trivial
theorem enterRunning : Statement .enterRunning := fun _ => trivial
theorem voucherReserve : Statement .voucherReserve := fun _ => trivial
theorem voucherIssue : Statement .voucherIssue := fun _ => trivial
theorem voucherReturn : Statement .voucherReturn := fun _ => trivial
theorem voucherRetire : Statement .voucherRetire := fun _ => trivial
theorem logReserve (asker : Block) : Statement (.logReserve asker) := by
  cases asker <;> simp [Statement, Instr.wellFormed, asksRoom]
theorem logHandBack (asker : Block) : Statement (.logHandBack asker) := by
  cases asker <;> simp [Statement, Instr.wellFormed, asksRoom]
theorem logWriteReserved (asker : Block) : Statement (.logWriteReserved asker) := by
  cases asker <;> simp [Statement, Instr.wellFormed, asksReserved]
theorem logWriteFree (asker : Block) : Statement (.logWriteFree asker) := by
  cases asker <;> simp [Statement, Instr.wellFormed, asksFree]
theorem setRequest (asker : Block) : Statement (.setRequest asker) := by
  intro h
  simpa [Instr.wellFormed] using h
theorem refusal (n : Lane) : Statement (.refusal n) := fun _ => trivial
theorem accessBegin (n : Lane) (a : Addr) (write : Option Word) : Statement (.accessBegin n a write) := fun _ => trivial

end Sys2Proof.Laws.OperandBounds
end

