-- ==== Sys2Proof/Laws/Placements.lean ====
section
/-! SUPPORT. Several placements with room in the queue: what the queue holds after them, for the words that a change
places (`Part.StatusPlaced`, `Part.PrinterPlaced`, `Part.CountsPlaced` of Safety.lean). -/

namespace Sys2Proof.Laws

open Sys2Proof.Machine

theorem serveLane_noPass (a : Addr) (p : Part) (n : Lane) (h : ∀ m, p.passedWrite m = none) :
    ∀ m, (serveLane a p n).passedWrite m = none := by
  intro m
  unfold serveLane
  split
  · by_cases hm : m = n
    · subst hm
      exact passedWrite_free (by unfold Part.finishRead; rw [lane_setLane]; simp)
    · rw [← h m]
      exact passedWrite_of_lane m rfl rfl (by unfold Part.finishRead; rw [lane_setLane, if_neg hm]) fun _ => rfl
  · rw [h n]; exact h m

/-- A placement brings no passed write about. -/
theorem placeWord_noPass {p q : Part} {a : Addr} {v : Word} (hq : placeWord p a v = some q)
    (h : ∀ n, p.passedWrite n = none) : ∀ n, q.passedWrite n = none := by
  unfold placeWord at hq
  split at hq
  · cases hq
  · rename_i r _
    cases hq
    have key : ∀ (l : List Lane) (p : Part), (∀ n, p.passedWrite n = none) →
        ∀ n, (l.foldl (serveLane a) p).passedWrite n = none := by
      intro l
      induction l with
      | nil => exact fun _ h => h
      | cons m l ih => exact fun p h => ih _ (serveLane_noPass a p m h)
    split
    · exact h
    · exact key _ { p with queue := r } h

/-- Placements of distinct words, with room for all of them and no lane's passed write in the way: the queue holds the
placed values, and for every other word what it held. -/
theorem placements_find (l : List (Addr × Word)) (p : Part) (hr : p.queue.length + l.length ≤ 16)
    (hn : ∀ n, p.passedWrite n = none) (hd : (l.map (·.1)).Nodup) :
    (∀ n, ((l.map fun e => Act.place e.1 e.2).foldl placeAct p).passedWrite n = none) ∧
    ∀ b, queueFind ((l.map fun e => Act.place e.1 e.2).foldl placeAct p).queue b
      = (queueFind l b).or (queueFind p.queue b) := by
  induction l generalizing p with
  | nil => exact ⟨hn, fun b => by simp [queueFind]⟩
  | cons e l ih =>
    obtain ⟨a, v⟩ := e
    simp only [List.length_cons] at hr
    obtain ⟨q, hq, hl⟩ := placeWord_room p a v (by omega)
    have he : placeAct p (.place a v) = q := by simp [placeAct, hq]
    simp only [List.map_cons, List.nodup_cons] at hd
    simp only [List.map_cons, List.foldl_cons, he]
    obtain ⟨h1, h2⟩ := ih q (by omega) (placeWord_noPass hq hn) hd.2
    refine ⟨h1, fun b => ?_⟩
    rw [h2, placeWord_find hq (fun n w => by rw [hn n]; simp), queueFind]
    by_cases hb : a = b
    · subst hb
      have : queueFind l a = none := queueFind_none.2 hd.1
      simp [this]
    · have hb' : ¬ b = a := fun e => hb e.symm
      simp [hb, hb']

/-- Two words of one slot of a laid-out ORDER window have different addresses. -/
theorem orderAddr_inj {p : Part} (h : p.laidOut) (sl : SlotNo) {j k : Nat} (hj : j < 32) (hk : k < 32)
    (e : p.orderAddr sl j = p.orderAddr sl k) : j = k := by
  have hw := h.1 (p.base (·.orderBase), 768) (by simp)
  have hs := sl.isLt
  have := congrArg BitVec.toNat e
  simp only [Part.orderAddr, addrOf, BitVec.toNat_ofNat] at this
  dsimp only at hw
  omega

/-- The status placements of a change, as words and values. -/
theorem statusPlaces_eq (p : Part) (sl : SlotNo) (s t : Shadow) : statusPlaces p sl s t
    = (((List.range 16).filter fun k => statusWord s k != statusWord t k).map fun k =>
        (p.orderAddr sl (16 + k), statusWord t k)).map fun e => Act.place e.1 e.2 := by
  unfold statusPlaces
  induction List.range 16 with
  | nil => rfl
  | cons k l ih =>
    by_cases h : statusWord s k = statusWord t k
    · simp [h, ih]
    · simp [h, ih]

/-- With room and the windows laid out, the status placements of a change leave its words in the queue (R68). -/
theorem statusPlaces_placed (p : Part) (sl : SlotNo) (s t : Shadow) (hl : p.laidOut) (hn : ∀ n, p.passedWrite n = none)
    (hr : p.room ((List.range 16).filter fun k => statusWord s k != statusWord t k).length) :
    p.StatusPlaced ((statusPlaces p sl s t).foldl placeAct p) sl s t := by
  intro k hk
  have hd : ((((List.range 16).filter fun k => statusWord s k != statusWord t k).map fun k =>
      (p.orderAddr sl (16 + k), statusWord t k)).map (·.1)).Nodup := by
    rw [List.map_map]
    refine List.Nodup.map_on (fun i hi j hj e => ?_) (List.nodup_range.filter _)
    have hi := List.mem_range.1 (List.mem_filter.1 hi).1
    have hj := List.mem_range.1 (List.mem_filter.1 hj).1
    have := orderAddr_inj hl sl (j := 16 + i) (k := 16 + j) (by omega) (by omega) e
    omega
  rw [statusPlaces_eq, (placements_find _ p (by simpa using hr) hn hd).2]
  have hfind : ∀ l : List Nat, (∀ i ∈ l, i < 16) → k.val ∈ l →
      queueFind (l.map fun k => (p.orderAddr sl (16 + k), statusWord t k)) (p.orderAddr sl (16 + k.val))
        = some (statusWord t k) := by
    intro l
    induction l with
    | nil => intro _ h; cases h
    | cons i l ih =>
      intro hi hm
      simp only [List.map_cons, queueFind]
      split
      · rename_i e
        have := hi i (by simp)
        have hk := k.isLt
        have := orderAddr_inj hl sl (j := 16 + i) (k := 16 + k.val) (by omega) (by omega) e
        have e : i = k.val := by omega
        rw [e]
      · rename_i e
        rcases List.mem_cons.1 hm with rfl | hm
        · exact absurd rfl e
        · exact ih (fun j hj => hi j (by simp [hj])) hm
  rw [hfind _ (fun i hi => List.mem_range.1 (List.mem_filter.1 hi).1)
    (List.mem_filter.2 ⟨List.mem_range.2 k.isLt, by simpa using hk⟩)]
  rfl

end Sys2Proof.Laws
end

