-- ==== Sys2Proof/Laws/Store.lean ====
section
/-! SUPPORT. What one act of a decision does to the update queue: a placement that goes in, or nothing; and what a
side's request to the order unit does. -/

namespace Sys2Proof.Laws

open Sys2Proof.Machine

theorem passDone_queue (p : Part) (n : Lane) (a : Addr) (v : Word) : (p.passDone n a v).queue = p.queue := by
  unfold Part.passDone; split <;> rfl

theorem serveLane_queueOk (a : Addr) (p : Part) (n : Lane) (h : queueOk p.queue) :
    queueOk (serveLane a p n).queue := by
  unfold serveLane
  split
  · exact h
  · split
    · split
      · rw [passDone_queue]; exact queueReplace_ok h _ _
      · exact h
    · exact h

theorem placeWord_queueOk {p q : Part} {a : Addr} {v : Word} (e : placeWord p a v = some q) (h : queueOk p.queue) :
    queueOk q.queue := by
  unfold placeWord at e
  split at e
  · cases e
  · rename_i r hr
    have hs := (queuePlace_spec hr).1 h
    cases e
    split
    · exact hs
    · have key : ∀ (l : List Lane) (p : Part), queueOk p.queue → queueOk (l.foldl (serveLane a) p).queue := by
        intro l
        induction l with
        | nil => intro p h; exact h
        | cons n l ih => intro p h; exact ih _ (serveLane_queueOk a p n h)
      exact key _ _ hs

theorem ask_part {p : Part} {b : Block} {d : Decided} {next : List Act} {t : Took}
    (h : ask p b d next = some t) : t.part = d.1 := by rw [(ask_eq h).2]

theorem askDirectory_part {p : Part} {d : Decided} {next : List Act} {t : Took}
    (h : askDirectory p d next = some t) : t.part = d.1 := ask_part h

theorem takeWithdrawal_queue (p : Part) (b : Block) : (takeWithdrawal p b).queue = p.queue := by
  rw [takeWithdrawal_frame]

theorem withdrawBlock_queue (p : Part) (b : Block) : (withdrawBlock p b).queue = p.queue := by
  unfold withdrawBlock
  split
  · rfl
  · split
    · exact waits_queue ..
    · exact takeWithdrawal_queue p b

/-- A fold of changes that keep the queue keeps it. -/
theorem foldl_queue {α : Type} {f : Part → α → Part} (hf : ∀ p x, (f p x).queue = p.queue) (l : List α) (p : Part) :
    (l.foldl f p).queue = p.queue := by
  induction l generalizing p with
  | nil => rfl
  | cons x l ih => exact (ih _).trans (hf p x)

/-- With no decision in progress no block waits with its withdrawal values. -/
theorem decidingBeside_of_free {p : Part} (h : ∀ b, p.busy b = false) (b : Block) : p.decidingBeside b = false := by
  have e : ∀ b, (p.task b).acts = [] := fun b => by simpa [Part.busy] using h b
  unfold Part.decidingBeside
  split <;> simp [e]

/-- The lane state words that wait are kept in place, every other act as it is. -/
theorem keepLaneWords_task (p : Part) (b : Block) :
    p.keepLaneWords.task b = ⟨(p.task b).acts.map (Act.keepLaneWord p), (p.task b).parts⟩ := by
  simp [Part.keepLaneWords, Part.task]

theorem leaveUndecided_queue (p : Part) (b : Block) : (p.leaveUndecided b).queue = p.queue :=
  foldl_queue (f := fun (q : Part) (n : Lane) => q.setLane n _) (fun _ _ => rfl) _ _

/-- A withdrawal keeps the queued entries. -/
theorem withdrawNow_queue (p : Part) : (withdrawNow p).queue = p.queue :=
  (foldl_queue withdrawBlock_queue _ _).trans (foldl_queue leaveUndecided_queue _ p.dropEvaluation)

theorem own_part {d : Decided} {t : Took} (h : own d = some t) : t.part = d.1 := by cases h; rfl
theorem did_part {p : Part} {t : Took} (h : did p = some t) : t.part = p := by cases h; rfl

theorem takeFreeEntry_part {p : Part} {n : Lane} {d : Draft} {g : Decided} {t : Took}
    (h : takeFreeEntry p n d g = some t) : t.part = g.1 ∨ t.part = p.handRefusal n .logFull := by
  unfold takeFreeEntry at h
  split at h
  · have e := ask_part h; exact .inl e
  · have e := ask_part h; exact .inr e

/-- A side's request finds the order unit free, and the side then waits for the end of the decision (R69, R124). -/
theorem askOrder_eq {p : Part} {acts : List Act} {t : Took} (h : askOrder p acts = some t) :
    p.busy .order = false ∧ t = { part := p, acts := [.await .order], started := some (.order, acts) } := ask_eq h

/-- All that a side's request about its job can do: nothing for want of a job, else the order unit's decision. -/
theorem takeJobRequest_cases {p : Part} {d : Printer} {st : SlotState} {f : Shadow → Shadow} {t : Took}
    (h : takeJobRequest p d st f = some t) :
    ((p.sideAt d).job = none ∧ t = { part := p }) ∨
    ∃ sl, (p.sideAt d).job = some sl ∧ p.busy .order = false ∧ t = {
      part := p, acts := [.await .order]
      started := some (.order, if (p.slot sl).state = st then changeSlot p sl f else []) } := by
  unfold takeJobRequest at h
  split at h
  · next hj => cases h; exact .inl ⟨hj, rfl⟩
  · next sl hj => exact .inr ⟨sl, hj, askOrder_eq h⟩

theorem takeJobRequest_part {p : Part} {d : Printer} {st : SlotState} {f : Shadow → Shadow} {t : Took}
    (h : takeJobRequest p d st f = some t) : t.part = p := by
  obtain ⟨_, e⟩ | ⟨_, _, _, e⟩ := takeJobRequest_cases h <;> rw [e]

theorem takeFill_part {p : Part} {d : Printer} {t : Took} (h : takeFill p d = some t) :
    t.part = { p with print := t.part.print } := by
  unfold takeFill at h
  split at h
  · rw [did_part h]
  · have := own_part h
    rw [this]; exact fillItem_frame ..
  · split at h
    · cases h
    · have := own_part h
      rw [this]

theorem takeSeat_queue (p : Part) (n : Lane) (c : Word) : (takeSeat p n c).part.queue = p.queue := by
  unfold takeSeat
  split
  · split
    · rename_i h; have := decideSeat_frame h; dsimp only at this ⊢; rw [this]
    · simp
  · rfl

theorem takeRead_queue (p : Part) (v : Word) (a : Act) : (takeRead p v a).part.queue = p.queue := by
  unfold takeRead
  split
  · exact takeSeat_queue ..
  · rfl
  · dsimp only; rw [loadShow_frame]
  · dsimp only
    unfold takeCellWord
    split
    · dsimp only; rw [rebuildCell_frame]
    · rfl
  · rfl

/-- What one act does to the queue. -/
theorem take_queue {p : Part} {a : Act} {t : Took} (ht : take p a = some t) :
    t.part.queue = p.queue ∨ ∃ x v, placeWord p x v = some t.part := by
  unfold take at ht
  split at ht
  · obtain ⟨v, _, e⟩ := Option.map_eq_some_iff.1 ht
    left; rw [← e]; exact takeRead_queue ..
  · cases a <;> dsimp only at ht
    case place => 
      obtain ⟨q, hq, e⟩ := Option.bind_eq_some_iff.1 ht
      right; exact ⟨_, _, by rw [did_part e]; exact hq⟩
    case sync =>
      obtain ⟨q, hq, e⟩ := Option.bind_eq_some_iff.1 ht
      right; exact ⟨_, _, by rw [did_part e]; exact hq⟩
    all_goals left
    case finish => rw [did_part ht]; rfl
    case line => rw [did_part ht]; rfl
    case flag => rw [ask_part ht, setFlag_frame]
    case showChange => rw [ask_part ht, setShowChange_frame]
    case refusal => rw [ask_part ht, recordRefusal_frame]
    case logAdvance => rw [own_part ht]; rfl
    case handBack => rw [ask_part ht, logHandBack_frame]
    case writeReserved => rw [ask_part ht, writeReserved_frame]
    case editLog => rcases takeFreeEntry_part ht with h | h <;> rw [h] <;> simp
    case releaseDone => rw [did_part ht]; rfl
    case await => split at ht <;> first | (cases ht; done) | rw [did_part ht]
    case sweepAsk => rw [did_part ht]
    case sweepDone => rw [did_part ht]
    case holdFor => split at ht <;> first | (cases ht; done) | rw [did_part ht]
    case evaluateStart => rw [own_part ht]
    case evaluate => rw [own_part ht, evaluateShow_frame]
    case retireLog =>
      unfold takeRetireLog at ht
      dsimp only at ht
      split at ht
      · rw [ask_part ht, logReserve_frame]
      · rw [ask_part ht]; dsimp only; rw [handRefusal_queue, logReserve_frame]
    case retireSlots =>
      unfold takeRetireSlots at ht
      split at ht <;> rw [ask_part ht] <;> simp
    case retireHolds =>
      unfold takeRetireHolds at ht
      split at ht <;> rw [ask_part ht] <;> simp
    case retireVouchers => rw [askDirectory_part ht, retireVouchers_frame]
    case retireDone => rw [own_part ht]; rfl
    case closeHolds =>
      unfold takeCloseHolds at ht
      dsimp only at ht
      split at ht <;> rw [ask_part ht]
    case closeDirectory =>
      unfold takeCloseDirectory at ht
      split at ht <;> rw [ask_part ht]
    case closeLog => unfold takeCloseLog at ht; dsimp only at ht; rw [ask_part ht, logReserve_frame]
    case refuseSlot => rw [own_part ht]
    case pend =>
      unfold takePend at ht
      dsimp only at ht
      split at ht
      · rename_i h; rw [ask_part ht, pendHolds_frame h]
      · rw [ask_part ht]
    case closeReserve =>
      unfold takeCloseReserve at ht
      dsimp only at ht
      split at ht
      · rw [own_part ht, closeEnd_frame]
      · rw [askDirectory_part ht]; dsimp only; rw [closeEnd_frame, reserveVouchers_frame]
    case sale => rw [ask_part ht]; rfl
    case returnSeats => rw [ask_part ht]; rfl
    case drop => rw [ask_part ht]; rfl
    case issue => rw [askDirectory_part ht, issueVouchers_frame]
    case returnVouchers => rw [askDirectory_part ht, returnVouchers_frame]
    case approve => rw [own_part ht]
    case endSlot => rw [own_part ht]
    case emptySlot => rw [own_part ht]
    case handoff => cases ht; rfl
    case reprintLog => rcases takeFreeEntry_part ht with h | h <;> rw [h] <;> simp
    case commit => rw [did_part ht]; rfl
    case lateEnd => rw [own_part ht]
    case deadlines => rw [did_part ht]; rfl
    case teardownDone => rw [did_part ht]; rfl
    case lapseAsk => rw [did_part ht]; rfl
    case fetched => rw [did_part ht]
    case verdict => rw [did_part ht]
    case redeemLog => rcases takeFreeEntry_part ht with h | h <;> rw [h] <;> first | rfl | simp
    case clearWords => unfold takeClear at ht; split at ht <;> rw [own_part ht]
    case rebuild => rw [own_part ht]; rfl
    case directoryEnd => rw [did_part ht]
    case askStart => rw [takeJobRequest_part ht]
    case askProgress => rw [takeJobRequest_part ht]
    case askDone => rw [takeJobRequest_part ht]
    case askHalt => rw [(askOrder_eq ht).2]
    case sideIdle => rw [own_part ht, sideToIdle_frame]
    case fill => rw [takeFill_part ht]
    case setPart => rw [did_part ht]
    case initLoad => split at ht <;> first | (cases ht; done) | (rw [did_part ht]; rfl)
    case initLog => rw [own_part ht]; rfl
    case initSlots => rw [own_part ht]
    case initLanes => rw [own_part ht]; rfl
    case clockStart => rw [own_part ht]; rfl
    case enterSweeping => rw [did_part ht]; rfl
    case withdrawAsk =>
      split at ht <;> rw [ask_part ht]
      · simp
      · exact withdrawNow_queue p
    case withdraw => split at ht <;> first | (cases ht; done) | rw [did_part ht, takeWithdrawal_queue]
    case seatRead => cases ht
    case priceRead => cases ht
    case showRead => cases ht

theorem take_queueOk {p : Part} {a : Act} {t : Took} (ht : take p a = some t) (h : queueOk p.queue) :
    queueOk t.part.queue := by
  rcases take_queue ht with e | ⟨x, v, e⟩
  · rw [e]; exact h
  · exact placeWord_queueOk e h

/-- Every decision keeps the bounds of the queue. -/
theorem carries_queueOk : Carries (fun _ => True) fun p q => queueOk p.queue → queueOk q.queue :=
  carries_all (fun _ h => h) (fun _ _ _ h k x => k (h x)) (fun _ _ _ h => h) (fun _ _ _ ht h => take_queueOk ht h)

theorem settle_queueOk (p : Part) (h : queueOk p.queue) : queueOk (settle p).queue :=
  (goes_settle carries_queueOk p fun _ _ _ _ => trivial).rel h

theorem decideAt_queueOk (b : Block) (pace : Pace) (d : Decided) (h : queueOk d.1.queue) :
    queueOk (decideAt b pace d).queue :=
  (goes_decideAt carries_queueOk b pace d.1 d.2 fun _ _ => trivial).rel h

theorem run_queueOk (b : Block) (p : Part) (h : queueOk p.queue) : queueOk (run b p).queue :=
  (goes_run carries_queueOk b p fun _ _ => trivial).rel h

theorem hand_queueOk (b : Block) (l : List Act) (p : Part) (h : queueOk p.queue) : queueOk (hand b l p).queue :=
  (goes_hand carries_queueOk b l p (fun _ _ => trivial) fun _ _ => trivial).rel h

theorem answer_queueOk (b : Block) (w : Act → Bool) (p : Part) (h : queueOk p.queue) :
    queueOk (answer b w p).queue :=
  (goes_answer carries_queueOk b w p fun _ _ => trivial).rel h

end Sys2Proof.Laws
end

