-- ==== Sys2Proof/Tests/Slice0.lean ====
section
/-! SUPPORT. Tests: ill-formed commands, the check codes, and for each statement with hypotheses a state and operands
that meet them, clause by clause. -/

namespace Sys2Proof.Tests

open Sys2Proof.Machine

-- One theorem at a time: the threads of many kernel evaluations would together outgrow the memory limit.
set_option Elab.async false

/-! ### Ill-formed commands, one for each check -/

theorem test_ill_poll_bits : (Instr.poll 0x11 ⟨[], 8⟩).wellFormed = false := by decide
theorem test_ill_fetch_bits : (Instr.fetch ⟨[], 8⟩).wellFormed = false := by decide
theorem test_ill_report_bits : (Instr.report ⟨[], 8⟩).wellFormed = false := by decide
theorem test_ill_abandon_bits : (Instr.abandon ⟨[], 8⟩).wellFormed = false := by decide
theorem test_ill_poll_command : ∀ b ∈ ([0x22, 0x33, 0x44] : List Byte), (Instr.poll b ⟨[], 0⟩).wellFormed = false := by
  decide
theorem test_ill_hold_asker : (Instr.holdQuestion .directory).wellFormed = false := by decide
theorem test_ill_reserve_asker : (Instr.logReserve .directory).wellFormed = false := by decide
theorem test_ill_hand_back_asker : (Instr.logHandBack .directory).wellFormed = false := by decide
theorem test_ill_reserved_asker : (Instr.logWriteReserved .shows).wellFormed = false := by decide
theorem test_ill_free_asker : (Instr.logWriteFree .shows).wellFormed = false := by decide
theorem test_ill_set_asker : (Instr.setRequest .attention).wellFormed = false := by decide
theorem test_well_formed : (Instr.poll 0x11 ⟨[0xFF], 7⟩).wellFormed = true ∧ (Instr.holdQuestion .shows).wellFormed = true := by
  decide

/-! ### Check codes: the check values over the nine bytes "123456789" -/

theorem test_crc8 : crc8 [0x31, 0x32, 0x33, 0x34, 0x35, 0x36, 0x37, 0x38, 0x39] = 0xF4 := by decide +kernel
theorem test_crc16 : crc16 [0x31, 0x32, 0x33, 0x34, 0x35, 0x36, 0x37, 0x38, 0x39] = 0x29B1 := by decide +kernel

/-! ### A part in RUNNING with show 7 OPEN, from which the witnesses are made -/

/-- Show 7 of the worked sequences: 6 seats at map offset 0E00h, so that seat 0 is the word 1000h. -/
def show7 : ShowEntry :=
  { state := .opened, cursor := 7, cut := false, fault := false, last := .opened
    words := #v[some 0x0E00, some 6, some 20, some 1205, some 10, some 60, some 4]
    start := 30005, cutoff := 29995, expiry := 30065 }

/-- ORDER lies at 4200h, SPOOL at 4500h, VOUCHER at 5D00h, LOG at 6100h. -/
def base : Part :=
  { Part.initial .powerOn with
    windows := some ⟨2, 64, 0x42, 0x45, 0x5D, 0x61, 5⟩
    clock := ⟨0, 0, 0, 1172, 20, 0, true, none⟩
    shows := (Vector.replicate 16 ShowEntry.initial).set 7 show7
    lanes := Vector.ofFn fun n => { LaneIf.initial with role := if n = 0 then .none else if n = 5 then .counter else .kiosk }
    hold := { HoldUnit.initial with duration := 120, warnLead := 10, quota := #v[0, 1, 4, 4, 4, 0] }
    log := ⟨32, 1, 0, 1, 0⟩
    setup := { Setup.initial .powerOn with part := .running, work := .ended } }

/-- The machine with a part. -/
def st (p : Part) : State := { State.reset with part := p }

/-- The part after a command. -/
def after (c : Instr) (p : Part) : Part :=
  match exec c (st p) with
  | .next s => s.part
  | .fault _ | .refused _ => p

/-- Lane `n` presents an access. -/
def access (p : Part) (n : Lane) (a : Addr) (w : Option Word) (decided : Bool := false) : Part :=
  p.setLane n fun l => { l with access := some ⟨a, w, decided, false⟩ }

/-- A part in TRANSPARENT, as after power-on. -/
def fresh : Part := Part.initial .powerOn

theorem idle_of_work {p : Part} (h : p.waiters = []) (k : p.work = Vector.replicate 19 ⟨[], false⟩) : p.idle := by
  refine ⟨h, fun b => ?_⟩
  unfold Part.busy Part.task
  rw [k]
  simp

theorem test_base_idle : base.idle := idle_of_work rfl rfl

/-! ### The step, its invariants, power and the clock -/

theorem test_pending : ({ st base with pending := [.portGrant, .eighthEvent] } : State).pending
    = .portGrant :: [.eighthEvent] := rfl

theorem test_invariants : (st base).storeOk ∧ base.countsOk ∧ base.listsOk ∧ ∃ t, step (st base) = .next t :=
  ⟨by decide +kernel, by decide +kernel, by decide +kernel, _, rfl⟩

theorem test_reset : base.resetLow = false ∧ ({ base with resetLow := true } : Part).resetLow = true ∧ base.calm := by
  decide +kernel

/-- The clock of the base part with other counts. -/
def clocked (prescaler eighth second : Nat) : Part :=
  { base with clock := { base.clock with prescaler, eighth, second } }

theorem test_clock : (clocked 4094 6 0).clock.prescaler < 4095 ∧ (clocked 4095 6 0).clock.prescaler = 4095 ∧
    (clocked 4095 6 0).clock.started = true ∧ base.accepted = true ∧ (clocked 4095 6 0).clock.eighth < 7 ∧
    fresh.clock.started = false ∧ fresh.calm ∧ (st base).pending = [] := by decide +kernel

/-- SECOND_EVENT and MINUTE_EVENT at the last eighth of a minute, with a deadline reached and a lane WATCHING. -/
def lastEighth : Part :=
  let p := (clocked 4095 7 59).setLane 1 fun l => { l with watch := ⟨true, true, 0, 1⟩ }
  { p with order := { p.order with
      slots := p.order.slots.set 3 { Shadow.initial with state := .tendering, deadline := some 1 }, window := [3] } }

theorem test_second : lastEighth.idle ∧ lastEighth.clock.started = true ∧ lastEighth.accepted = true ∧
    lastEighth.clock.ok ∧ lastEighth.room 5 ∧ lastEighth.tender.examine = false ∧
    (∀ n, (lastEighth.lane n).watchExpired = false) ∧ (∀ n, lastEighth.passedWrite n = none) ∧
    (lastEighth.lane 1).watch.on = true ∧
    3 ∈ lastEighth.order.window ∧ (lastEighth.slot 3).deadline = some 1 ∧ reached (lastEighth.clock.run + 1) 1 = true :=
  ⟨idle_of_work rfl rfl, by decide +kernel⟩

/-- The order unit is still placing the status words of a fetch take whose deadline the second event reaches: the check
of the deadlines follows the decision and finds the slot (R69). -/
def takesFetch : Part :=
  { lastEighth with order := { lastEighth.order with window := [] } }.setTask .order
    ⟨[.commit 3 { Shadow.initial with state := .tendering, deadline := some 1 }], false⟩

theorem test_deadlines_wait : (askDeadlines { takesFetch with clock := { takesFetch.clock with run := 1 } }).order.due = [] ∧
    (run .order (askDeadlines { takesFetch with clock := { takesFetch.clock with run := 1 } })).order.due = [3] := by
  decide +kernel

/-- Show 7 with a cut-off and a start that the next minute reaches, SHOW_CHANGE being set for every lane. -/
def dueAt (cutoff start : Nat) : Part :=
  { (clocked 4095 7 59).setShow 7 fun e => { e with cutoff, start } with
    attention := Vector.replicate 6 ⟨Flag.showChange.mask, 0, 0, 0, none, false⟩ }

theorem test_evaluation : ((dueAt 29973 30005).showAt 7).evaluated 29973 ≠ (dueAt 29973 30005).showAt 7 ∧
    (((dueAt 29973 29973).showAt 7).evaluated 29973).state = .dark ∧
    (((dueAt 29973 30005).showAt 7).evaluated 29973).state = .cutoff ∧ (dueAt 29973 29973).room 7 ∧
    (∀ n, Flag.showChange.isIn ((dueAt 29973 29973).att n).flags = true) ∧
    (∀ n, ((dueAt 29973 29973).lane n).watch.on = false) ∧ (dueAt 29973 29973).order.payQueue = [] ∧
    (dueAt 29973 29973).busy .attention = false := by decide +kernel

theorem test_evaluation_room : let due (p : Part) := ((List.finRange 16).filter fun sh =>
        ((p.showAt sh).evaluated 29973).state != (p.showAt sh).state).length
    let clear (n : Lane) (p : Part) : Part := p.setAtt n fun _ => Attention.initial
    due (dueAt 29973 29973) = 1 ∧ due (clear 3 (dueAt 29973 29973)) = 1 ∧
    Flag.showChange.isIn ((clear 3 (dueAt 29973 29973)).att 3).flags = false ∧
    (clear 3 (dueAt 29973 29973)).room (5 + 1 + 2 * 1) := by decide +kernel

theorem test_carries : (clocked 0 7 0).clock.eighth = 7 ∧ (clocked 0 7 59).clock.second = 59 ∧
    (clocked 0 7 59).clock.started = true ∧ (clocked 0 7 59).accepted = true := by decide +kernel

/-! ### Lane accesses and the port -/

/-- Lane 2 reads word 00100h. -/
def reading : Part := access base 2 0x100 none
/-- The word is queued. -/
def readingQueued : Part := { reading with queue := [(0x100, 7)] }
/-- Lane 0 reads too, and stands before lane 2. -/
def readingLater : Part := access reading 0 0x101 none

theorem test_read : (base.lane 2).access = none ∧ (reading.lane 2).access ≠ none ∧ reading.laneRead 2 = some 0x100 ∧
    reading.seatReading ≠ some 2 ∧ queueFind readingQueued.queue 0x100 = some 7 ∧
    readingQueued.laneRead 2 = some 0x100 ∧ queueFind reading.queue 0x100 = none ∧ reading.firstAsker = some (.lane 2) ∧
    readingLater.laneRead 2 = some 0x100 ∧ readingLater.firstAsker ≠ some (.lane 2) ∧ readingLater.calm := by
  decide +kernel

/-- Lane 2 writes a word of no region. -/
def passing : Part := access base 2 0x3FFFF (some 9)
def passingQueued : Part := { passing with queue := [(0x3FFFF, 7)] }
def passingLater : Part := access passing 0 0x101 none

theorem test_passed : passing.laneWrite 2 = some (0x3FFFF, 9) ∧ passing.treatment 2 0x3FFFF = .pass ∧
    passing.firstAsker = some (.lane 2) ∧ (passing.passedWrite 2).isSome = true ∧
    (queueFind passingQueued.queue 0x3FFFF).isSome = true ∧ passingQueued.laneWrite 2 = some (0x3FFFF, 9) ∧
    passingLater.firstAsker ≠ some (.lane 2) ∧ queueFind passingLater.queue 0x3FFFF = none ∧
    Memory.wf (st passing).mem := by decide +kernel

/-- A part whose queue holds an entry; one whose print reader asks; one whose sweep reader asks. -/
def draining : Part := { base with queue := [(5, 1), (6, 2)] }
def printing : Part :=
  let p := base.setSide 0 fun x => { x with state := .streaming, job := some 3, stage := .filling, bodyLen := some 5 }
  { p.setTask (.side 0) ⟨[.fill 0], false⟩ with print := { p.print with reader := [0] } }
def sweeping : Part :=
  { base with
    setup := { base.setup with part := .sweeping, sweepsLeft := [7] }
    shows := base.shows.set 7 { show7 with state := .opening }
    sweep := ⟨[7], none⟩ }

theorem test_grants : draining.queue = (5, 1) :: [(6, 2)] ∧ draining.firstAsker = some .drain ∧ draining.calm ∧
    base.firstAsker = none ∧ printing.firstAsker = some .printReader ∧ sweeping.firstAsker = some .sweepReader ∧
    sweeping.headRead .setup = none ∧ sweeping.headRead .directory = none ∧
    base.rotation = [.lane 0, .lane 1] ++ .lane 2 :: [.lane 3, .lane 4, .lane 5, .drain, .printReader, .sweepReader] ∧
    reading.asking (.lane 2) = true ∧ (∀ x ∈ [Requester.lane 0, .lane 1], reading.asking x = false) := by decide +kernel

/-- Lane 2 writes the status area, and its refusal waits. -/
def refusing : Part := access base 2 0x20 (some 1)
def refused : Part := base.setTask (.lane 2) ⟨[.refusal 2 0x20 .readOnly], false⟩

theorem test_refusal : refusing.laneWrite 2 = some (0x20, 1) ∧ refusing.treatment 2 0x20 = .readOnly ∧ refusing.calm ∧
    refused.freeFor .attention ∧ refused.accepted = true ∧
    (refused.task (.lane 2)).acts = [.refusal 2 0x20 .readOnly] ∧ refused.room 7 := by decide +kernel

/-! ### The supervisor's writes -/

/-- Lane `n` presents a write of `v` to `a`. -/
def writes (n : Lane) (a : Addr) (v : Word) (p : Part := base) : Part := access p n a (some v)

/-- A lane's owned write stands in the way of no placement. -/
theorem test_no_pass : (writes 0 0x3E 1).noPass 0x3E ∧ (writes 0 0x39 1).noPass 0x39 ∧ (writes 0 0x46 1).noPass 0x46 ∧ (writes 0 0xD7 1).noPass 0xD7 ∧
    (writes 0 0x1000 1).noPass 0x1000 ∧ (writes 0 0x1001 1).noPass 0x1001 ∧ (writes 0 0x426E 1).noPass 0x426E ∧ (writes 0 0x48FF 1).noPass 0x48FF ∧
    (writes 2 0x120 1).noPass 0x120 ∧ (writes 2 0x120 1).noPass 0x122 ∧ (writes 2 0x120 1).noPass 0x126 ∧
    (writes 2 0x121 1).noPass 0x121 ∧ (writes 2 0x127 1).noPass 0x127 ∧ (writes 2 0x127 1).noPass 0x128 := by
  decide +kernel

/-- The base part with a pending day. -/
def pendingDay : Part := base.setPendingDay (some 21)

theorem test_clock_set : (writes 0 0x3E 21).offers 0 0x3E 21 .clockDay .clock ∧ base.mode = .running ∧
    (base.lane 0).lapsed = false ∧ base.room 6 ∧ base.busy .shows = false ∧
    (writes 0 0x3F 1439 pendingDay).offers 0 0x3F 1439 .clockMinute .clock ∧
    (writes 0 0x3F 1439 pendingDay).clock.pendingDay = some 21 ∧ (1439 : Word).toNat ≤ 1439 ∧
    (writes 0 0x3F 1439).offers 0 0x3F 1439 .clockMinute .clock ∧ (writes 0 0x3F 1439).clock.pendingDay = none ∧
    (writes 0 0x3F 1440 pendingDay).offers 0 0x3F 1440 .clockMinute .clock ∧ 1439 < (1440 : Word).toNat := by
  decide +kernel

/-- Lane 0 LAPSED. -/
def lapsed0 : Part := base.setLane 0 fun l => { l with lapsed := true, watch := ⟨true, true, 0, 0⟩ }

theorem test_gates : (lapsed0.lane 0).lapsed = true ∧
    (∀ n : Lane, (writes n 0x40 1).laneWrite n = some (0x40, 1) ∧ (writes n 0x40 1).treatment n 0x40 = .showRecord 0 0 ∧
      (writes n 0x47 0x8001).treatment n 0x47 = .showCommand 0 ∧ (writes n 0xD7 1).treatment n 0xD7 = .price 23 ∧
      (writes n 0x3E 1).treatment n 0x3E = .clockDay ∧ (writes n 0x3F 1).treatment n 0x3F = .clockMinute ∧
      (writes n 0x39 1).treatment n 0x39 = .takeIndex) ∧
    base.busy .shows = false ∧ base.busy .order = false ∧ base.busy .clock = false ∧ base.busy .log = false := by
  decide +kernel

/-- A log with every entry used. -/
def fullLog : Part := { base with log := ⟨32, 0, 0, 32, 0⟩ }

theorem test_take : (writes 0 0x39 1).offers 0 0x39 1 .takeIndex .log ∧ 1 < base.log.capacity ∧
    (1 + base.log.capacity - base.log.take) % base.log.capacity ≤ base.log.used ∧
    ¬((2 + base.log.capacity - base.log.take) % base.log.capacity ≤ base.log.used) ∧ ¬(32 < base.log.capacity) ∧
    (writes 0 0x39 0 fullLog).offers 0 0x39 0 .takeIndex .log ∧
    (0 + fullLog.log.capacity - fullLog.log.take) % fullLog.log.capacity = 0 ∧
    fullLog.log.used = fullLog.log.capacity ∧ base.room 2 := by decide +kernel

/-! ### Attention and the lane watch -/

theorem test_flag_mask : (writes 2 0x120 0x10).offers 2 0x120 0x10 .flagWord .attention ∧ base.room 3 ∧
    (writes 2 0x121 0x10).offers 2 0x121 0x10 (.maskWord 2) .attention ∧
    (writes 3 0x121 1).laneWrite 3 = some (laneAddr 2 1, 1) ∧ (writes 0 0x120 1).laneWrite 0 = some (laneAddr 2 0, 1) ∧
    base.accepted = true ∧ (writes 0 0x121 0x10).offers 0 0x121 0x10 (.maskWord 2) .attention := by decide +kernel

/-- Acts of the order unit and of the show table that ask the attention unit. -/
def asksFlag : Part := base.setTask .order ⟨[.flag 3 .orderEnd], false⟩
def asksShowChange : Part := base.setTask .shows ⟨[.showChange, .handBack 1], true⟩

theorem test_stops : stops false [] ∧ stops true [.handBack 1] :=
  ⟨Or.inl rfl, Or.inr ⟨rfl, _, _, rfl, fun _ => rfl⟩⟩
theorem test_set_request : asksFlag.freeFor .attention ∧ asksFlag.accepted = true ∧
    asksFlag.task .order = ⟨.flag 3 .orderEnd :: [], false⟩ ∧ asksShowChange.freeFor .attention ∧
    asksShowChange.accepted = true ∧ asksShowChange.task .shows = ⟨.showChange :: [.handBack 1], true⟩ := by decide +kernel

/-- Lane 2 with a watch, LAPSED or not, its lapse work waiting or not, presenting a heartbeat. -/
def beats (v : Word) (on lapsed due : Bool) (count : Nat := 0) : Part :=
  (writes 2 0x127 v).setLane 2 fun l =>
    { l with lapsed, releaseDue := due, watch := ⟨on, true, 3, count⟩ }

theorem test_heartbeat :
    (beats 0x1023 false false false).offers 2 0x127 0x1023 .heartbeat (.lane 2) ∧
    Heartbeat.ofWord 0x1023 = .enable (some (true, 3)) ∧ Heartbeat.ofWord 0x1024 = .enable none ∧
    Heartbeat.ofWord 0x2000 = .refresh ∧ Heartbeat.ofWord 0x3000 = .rejoin ∧ Heartbeat.ofWord 0x4000 = .undefined ∧
    ((beats 0x1023 false false false).lane 2).watchExpired = false ∧
    ((beats 0x1023 true false false 1).lane 2).watchExpired = false ∧
    ((beats 0x1023 true false false 1).lane 2).watch.on = true ∧
    ((beats 0x2000 true true false).lane 2).watchExpired = false ∧
    ((beats 0x3000 true true false).lane 2).releaseDue = false ∧
    ((beats 0x3000 true true false).lane 2).teardownDue = false ∧
    ((beats 0x3000 true true true).lane 2).releaseDue = true ∧
    (beats 0x3000 true true true).offers 2 0x127 0x3000 .heartbeat (.lane 2) := by decide +kernel

/-- A watch of lane 2 that has run out. -/
def expired (lapseMode : Bool) : Part := base.setLane 2 fun l => { l with watch := ⟨true, lapseMode, 1, 0⟩ }

theorem test_watch_expiry : ∀ m, (expired m).freeFor (.lane 2) ∧ (expired m).accepted = true ∧
    ((expired m).lane 2).watch.on = true ∧ ((expired m).lane 2).lapsed = false ∧
    ((expired m).lane 2).watch.countdown = 0 ∧ ((expired m).lane 2).watch.lapseMode = m ∧ (expired m).room 5 ∧
    (expired m).busy .attention = false := by decide +kernel

/-! ### Shows and sweeps -/

/-- Show 0 in a state, with a cursor and the record of a show that can be opened. -/
def show0 (st : ShowState) (cursor : Nat) : Part :=
  base.setShow 0 fun e => { e with
    state := st, cursor, words := #v[some 0, some 0x400, some 20, some 1439, some 120, some 240, some 99] }

theorem test_show_record :
    (writes 0 0x46 9 (show0 .vacant 6)).offers 0 0x46 9 (.showRecord 0 6) .shows ∧
    ((show0 .vacant 6).showAt 0).cursor = 6 ∧ ((show0 .vacant 6).showAt 0).state = .vacant ∧
    (writes 0 0x40 9 (show0 .vacant 6)).offers 0 0x40 9 (.showRecord 0 0) .shows ∧
    (writes 0 0x45 9 (show0 .vacant 6)).offers 0 0x45 9 (.showRecord 0 5) .shows ∧
    (writes 0 0x46 9 (show0 .dark 6)).offers 0 0x46 9 (.showRecord 0 6) .shows := by decide +kernel

theorem test_open :
    (writes 0 0x47 0x8001 (show0 .vacant 7)).offers 0 0x47 0x8001 (.showCommand 0) .shows ∧
    openChecks (show0 .vacant 7) 0 (show0 .vacant 7).clock.minuteNo = true ∧
    ((show0 .vacant 7).showAt 0).cursor = 7 ∧
    (writes 0 0x47 0x8001 (show0 .vacant 6)).offers 0 0x47 0x8001 (.showCommand 0) .shows ∧
    (writes 0 0x47 0x8001 (show0 .cutoff 7)).offers 0 0x47 0x8001 (.showCommand 0) .shows ∧
    (writes 0 0x47 0x8001 ((show0 .vacant 7).setShow 0 fun e => { e with words := e.words.set 6 (some 100) })).offers
      0 0x47 0x8001 (.showCommand 0) .shows ∧
    openChecks ((show0 .vacant 7).setShow 0 fun e => { e with words := e.words.set 6 (some 100) }) 0 0 = false ∧
    (writes 0 0x47 0x8000).offers 0 0x47 0x8000 (.showCommand 0) .shows := by decide +kernel

theorem test_cut_price :
    (writes 0 0x7F 0x8002).offers 0 0x7F 0x8002 (.showCommand 7) .shows ∧ (base.showAt 7).state = .opened ∧
    (writes 0 0x47 0x8002 (show0 .opening 7)).offers 0 0x47 0x8002 (.showCommand 0) .shows ∧
    (writes 0 0x47 0x8002 (show0 .dark 7)).offers 0 0x47 0x8002 (.showCommand 0) .shows ∧
    (writes 0 0xD7 5).offers 0 0xD7 5 (.price 23) .order ∧ base.room 1 := by decide +kernel

/-- Show 7 DARK, its RETIRE presented. -/
def retiring : Part := writes 0 0x7F 0x8003 (base.setShow 7 fun e => { e with state := .dark })

/-- A DONE slot names the show; LOG_HALF and LOG_FULL are set for lane 0. -/
def retiringHeld : Part :=
  { retiring with
    attention := retiring.attention.set 0 ⟨Flag.logHalf.mask ||| Flag.logFull.mask, 0, 0, 0, none, false⟩
    order := { retiring.order with slots := retiring.order.slots.set 3 { Shadow.initial with
      state := .done, words := Vector.replicate 15 (some 7) } } }

theorem test_retire : retiring.idle ∧ retiring.offers 0 0x7F 0x8003 (.showCommand 7) .shows ∧
    slotHoldsShow retiring 7 = false ∧ slotHoldsShow retiringHeld 7 = true ∧ retiringHeld.idle ∧
    retiringHeld.offers 0 0x7F 0x8003 (.showCommand 7) .shows ∧ retiringHeld.room 14 ∧ (∀ h ∈ retiring.hold.holds, h.showNo ≠ 7) ∧
    retiring.log.used + retiring.log.reserved + 1 ≤ retiring.log.capacity ∧
    (writes 0 0x47 0x8003).offers 0 0x47 0x8003 (.showCommand 0) .shows ∧ (base.showAt 0).state = .vacant ∧
    (writes 0 0x47 0x8003 (show0 .opening 7)).offers 0 0x47 0x8003 (.showCommand 0) .shows :=
  ⟨idle_of_work rfl rfl, by decide +kernel, by decide +kernel, by decide +kernel, idle_of_work rfl rfl, by decide +kernel⟩

/-- A sweep of show 7 that has decided its last cell, with a start, a cut-off and the mark. -/
def swept (start cutoff : Nat) (cut query : Bool) : Part :=
  { sweeping with
    shows := base.shows.set 7 { show7 with state := .opening, start, cutoff, cut }
    sweep := ⟨[], some ⟨7, 6, query⟩⟩ }
/-- The last cell of the map is queued. -/
def sweepingQueued : Part := { sweeping with sweep := ⟨[], some ⟨7, 5, false⟩⟩, queue := [(0x1005, 0x8001)] }

theorem test_sweep : sweeping.sweepNext = some ⟨7, 0, false⟩ ∧ queueFind sweeping.queue 0x1000 = none ∧
    sweeping.firstAsker = some .sweepReader ∧ sweeping.calm ∧ sweeping.accepted = true ∧
    sweepingQueued.sweepNext = some ⟨7, 5, false⟩ ∧ sweepingQueued.seatAddr 7 5 = 0x1005 ∧
    sweepingQueued.headRead .setup = none ∧ sweepingQueued.headRead .directory = none ∧
    queueFind sweepingQueued.queue 0x1005 = some 0x8001 ∧ (∀ n, sweepingQueued.passedWrite n = none) := by decide +kernel
theorem test_sweep_end : ∀ q, (swept 30005 29973 false q).sweepEnded = some ⟨7, 6, q⟩ ∧
    (swept 29972 29972 false q).sweepEnded = some ⟨7, 6, q⟩ ∧ (swept 29973 29972 false q).sweepEnded = some ⟨7, 6, q⟩ ∧
    (swept 30005 29973 true q).sweepEnded = some ⟨7, 6, q⟩ ∧ (swept 30005 29973 false q).busy .shows = false ∧
    (swept 30005 29973 false q).calm ∧ (swept 30005 29973 false q).room 16 ∧
    (swept 30005 29973 false q).busy .attention = false := by decide +kernel

/-! ### Seats -/

/-- The hold of seat 1 of show 7 by lane 2, with a slot or none. -/
def hold1 (renewals : Nat) (slot : Option SlotNo) (expiry : RunSecond := 0) : Hold :=
  ⟨7, 1, 2, 3, expiry, renewals, false, slot⟩
/-- The base part with holds. -/
def holding (hs : List Hold) : Part := base.setHolds hs
/-- The word of seat 1 is queued. -/
def seat1 (w : Word) (p : Part) : Part := { p with queue := [(0x1001, w)] }

theorem test_claim : (writes 2 0x1000 1).offers 2 0x1000 1 .seat .hold ∧ (Cell.ofWord 1).edit = false ∧
    (Cell.ofWord 1).state = cellHeld ∧ (base.lane 2).role = .kiosk ∧ (writes 2 0x1000 1).seatOf 0x1000 = some (7, 0) ∧
    (writes 2 0x1005 1).seatOf 0x1005 = some (7, 5) ∧ (base.showAt 7).state = .opened ∧
    queueFind base.queue 0x1000 = none ∧ ({ base with rotation := .lane 2 :: base.rotation.erase (.lane 2) } : Part).rotation.head?
      = some (.lane 2) ∧
    (Cell.ofWord (freeCell 2)).state = cellFree ∧ base.holdCount 2 < base.hold.quota[2] ∧
    (writes 2 0x1001 1 (seat1 (freeCell 3) base)).offers 2 0x1001 1 .seat .hold ∧
    (Cell.ofWord (cellWord cellHeld 1 31 3)).state = cellHeld ∧ (Cell.ofWord (cellWord cellHeld 1 31 3)).holder ≠ 2 ∧
    (Cell.ofWord (cellWord cellSold 1 31 3)).state ≠ cellFree ∧
    (holding [⟨7, 0, 1, 3, 0, 0, false, none⟩]).hold.quota[1] ≤ (holding [⟨7, 0, 1, 3, 0, 0, false, none⟩]).holdCount 1 ∧
    128 ≤ (holding (List.replicate 128 (hold1 0 none))).hold.holds.length := by decide +kernel

theorem test_seat_refusals : (writes 5 0x1000 1).offers 5 0x1000 1 .seat .hold ∧ (base.lane 5).role ≠ .kiosk ∧
    (writes 1 0x1000 0x8001).offers 1 0x1000 0x8001 .seat .hold ∧ (Cell.ofWord 0x8001).edit = true ∧
    (writes 2 0x1006 1).offers 2 0x1006 1 .seat .hold ∧ (writes 2 0x1006 1).seatOf 0x1006 = none ∧
    (writes 2 0x0FFF 0).offers 2 0x0FFF 0 .seat .hold ∧ (writes 2 0x0FFF 0).seatOf 0x0FFF = none ∧
    (writes 2 0x200 1 (show0 .opening 7)).offers 2 0x200 1 .seat .hold ∧
    (show0 .opening 7).seatOf 0x200 = some (0, 0) ∧ ((show0 .opening 7).showAt 0).state = .opening ∧
    (writes 2 0x1001 0 (seat1 (cellWord cellHeld 3 31 3) base)).offers 2 0x1001 0 .seat .hold ∧
    (Cell.ofWord 0).state = cellFree ∧ (Cell.ofWord 2).state ≠ cellFree ∧ (Cell.ofWord 2).state ≠ cellHeld ∧
    (writes 2 0x1001 2 (seat1 (freeCell 3) base)).offers 2 0x1001 2 .seat .hold := by decide +kernel

/-- Lane 2 claims again, or releases, seat 1, which it holds. -/
def again (v : Word) (renewals : Nat) (state : ShowState := .opened) : Part :=
  writes 2 0x1001 v (seat1 (cellWord cellHeld 2 31 3)
    ((holding [hold1 renewals none]).setShow 7 fun e => { e with state }))

theorem test_renewal : (again 1 2).offers 2 0x1001 1 .seat .hold ∧ (again 1 2).holdOf 7 1 = some (hold1 2 none) ∧
    (again 1 2).seatOf 0x1001 = some (7, 1) ∧ (hold1 2 none).renewals < 3 ∧ 3 ≤ (hold1 3 none).renewals ∧
    (again 1 3).offers 2 0x1001 1 .seat .hold ∧ (again 1 0 .dark).offers 2 0x1001 1 .seat .hold ∧
    (again 0 3).offers 2 0x1001 0 .seat .hold ∧
    queueFind (again 0 3).queue 0x1001 = some (cellWord cellHeld 2 31 3) ∧ (again 0 3).room 5 := by decide +kernel

/-- Lane 0 edits seat 1, found as `cell`. -/
def edits (v cell : Word) : Part := writes 0 0x1001 v (seat1 cell base)

theorem test_edit : ∀ c : Fin 6, (edits 0x8000 (cellWord c 2 5 3)).offers 0 0x1001 0x8000 .seat .hold ∧
    (edits 0x8000 (cellWord c 2 5 3)).seatOf 0x1001 = some (7, 1) ∧
    queueFind (edits 0x8000 (cellWord c 2 5 3)).queue 0x1001 = some (cellWord c 2 5 3) ∧
    (Cell.ofWord (cellWord c 2 5 3)).state = c ∧ (Cell.ofWord 0x8000).state = cellFree ∧
    (Cell.ofWord 0x8003).state = cellSold ∧ (Cell.ofWord 0x8002).state = cellPending ∧ (Cell.ofWord 0x8000).edit = true := by
  decide +kernel
theorem test_edit_logged : (writes 0 0x1001 0x8000).offers 0 0x1001 0x8000 .seat .hold ∧
    (writes 0 0x1001 0x8000).rotation.head? = some (.lane 0) ∧ Memory.read [(0x1001, cellWord 4 2 5 3)] 0x1001 ≠ 0 ∧
    (writes 0 0x1001 0x8000).queue = [] ∧ (∀ m, (writes 0 0x1001 0x8000).passedWrite m = none) ∧
    (writes 0 0x1001 0x8000).busy .log = false ∧ 1 ≤ (writes 0 0x1001 0x8000).log.room ∧
    (writes 0 0x1001 0x8000 fullLog).log.room = 0 ∧
    (0x1001 : Addr).toNat < (writes 0 0x1001 0x8000).base (·.logBase) + 8 * base.log.write := by decide +kernel

/-- A round with a hold that is reached, and one with a hold to warn. -/
def inRound (hs : List Hold) : Part :=
  { holding hs with hold := { base.hold with holds := hs, round := true } }

theorem test_expiry : (inRound [hold1 0 none]).freeFor .hold ∧ (inRound [hold1 0 none]).hold.round = true ∧
    (inRound [hold1 0 (some 3), hold1 1 none]).hold.holds.find? Hold.held = some (hold1 1 none) ∧
    reached (inRound [hold1 0 none]).clock.run (hold1 0 none).expiry = true ∧ (inRound [hold1 0 none 10]).dueHold = none ∧
    (inRound [hold1 0 none 10]).earliestHold 2 = some (hold1 0 none 10) ∧
    ((hold1 0 none 10).expiry - (inRound []).clock.run).toNat ≤ (inRound []).hold.warnLead ∧
    ¬(((hold1 0 none 11).expiry - (inRound []).clock.run).toNat ≤ (inRound []).hold.warnLead) ∧
    (∀ n, (inRound [hold1 0 none]).passedWrite n = none) ∧ (inRound [hold1 0 none 10]).room 12 ∧
    0x160 ≤ ((inRound [hold1 0 none]).seatAddr 7 1).toNat ∧ (inRound []).busy .attention = false := by decide +kernel

/-- A DARK release and a lapse release asked for. -/
def releasing : Part :=
  let p := (holding [hold1 0 none, hold1 0 (some 3)]).setLane 2 fun l => { l with releaseDue := true }
  { p with hold := { p.hold with darkDue := [7] } }

theorem test_bulk : releasing.freeFor .hold ∧ releasing.accepted = true ∧ 7 ∈ releasing.hold.darkDue ∧
    (releasing.lane 2).releaseDue = true ∧
    releasing.hold.holds.filter (fun h => h.slot.isNone && h.showNo == 7) = [hold1 0 none] ∧
    releasing.hold.holds.filter (fun h => h.slot.isNone && h.lane == 2) = [hold1 0 none] ∧ releasing.room 7 ∧
    (∀ n, releasing.passedWrite n = none) ∧ releasing.busy .attention = false := by decide +kernel

/-! ### Requests of the order unit to the hold unit -/

/-- A slot of lane 2 for seat 1 of show 7, with as many vouchers as asked, in a state. -/
def slot3 (state : SlotState) (vouchers : Nat := 0) : Shadow :=
  { Shadow.initial with
    state, owner := some 2, cursor := 15
    words := #v[some 7, some (wordOf (1 + vouchers * 256)), some 1, some 0xFFFF, some 0xFFFF, some 0xFFFF, some 0xFFFF,
      some 0xFFFF, some 0xFFFF, some 0xFFFF, some (if vouchers = 0 then 0xFFFF else 15), some 0xFFFF, some 0xFFFF,
      some 0xFFFF, some 0] }
/-- The base part with slot 3, holds, and acts of the order unit. -/
def ordering (x : Shadow) (hs : List Hold := []) (acts : List Act := []) (parts : Bool := true) : Part :=
  let p := (holding hs).setTask .order ⟨acts, parts⟩
  { p with order := { p.order with slots := p.order.slots.set 3 x, prices := Vector.replicate 24 500 } }

theorem test_pend : (ordering (slot3 .assembling 1) [hold1 0 none] [.pend 3, .place 0x426F 0x100]).freeFor .hold ∧
    (ordering (slot3 .assembling 1) [hold1 0 none] [.pend 3, .place 0x426F 0x100]).task .order
      = ⟨.pend 3 :: [.place 0x426F 0x100], true⟩ ∧
    (slot3 .assembling 1).seats.mapM (fun i =>
      ((ordering (slot3 .assembling 1) [hold1 0 none]).holdOf 7 i).filter fun h => h.lane == 2 && h.held)
      = some [hold1 0 none] ∧
    (slot3 .assembling 1).showNo = 7 ∧ (slot3 .assembling 1).ownerLane = 2 ∧ 0 < (slot3 .assembling 1).voucherCount ∧
    (slot3 .assembling 1).seats.mapM (fun i =>
      ((ordering (slot3 .assembling 1)).holdOf 7 i).filter fun h => h.lane == 2 && h.held) = none := by decide +kernel

/-- A close of slot 3 with no voucher, at its pend request, the seat's class at a price. -/
def pendsFree (price : Word) : Part :=
  let p := ordering (slot3 .assembling) [hold1 0 none] [.pend 3, .place 0x426F 0x100, .finish 2]
  { p with order := { p.order with prices := Vector.replicate 24 price } }

theorem test_pend_no_voucher : (pendsFree 500).freeFor .hold ∧ (pendsFree 500).accepted = true ∧
    (pendsFree 500).task .order = ⟨.pend 3 :: [.place 0x426F 0x100, .finish 2], true⟩ ∧
    ((pendsFree 500).lane 2).lapsed = false ∧ (pendsFree 500).slot 3 = slot3 .assembling ∧
    (pendsFree 500).room 8 ∧ 3 ∉ (pendsFree 500).order.payQueue := by decide +kernel

theorem test_pend_no_voucher_slot : (slot3 .assembling).voucherCount = 0 ∧ (slot3 .assembling).seatCount = 1 ∧
    (slot3 .assembling).seats.mapM (fun i => ((pendsFree 500).holdOf 7 i).filter fun h => h.lane == 2 && h.held)
      = some [hold1 0 none] ∧ (slot3 .assembling).vouchers = [] := by decide +kernel

theorem test_pend_amounts : (pendsFree 500).classPrice 3 = 500 ∧ (pendsFree 0).classPrice 3 = 0 := by decide +kernel

/-- A PENDING seat of slot 3, and a request for it at the head of the order unit's decision. -/
def requests (a : Act) : Part := ordering (slot3 .tendering) [hold1 0 (some 3)] [a, .handBack 1]

theorem test_hold_requests : ∀ a ∈ [Act.sale 3, .drop 3, .returnSeats 3], (requests a).freeFor .hold ∧
    (requests a).accepted = true ∧ (requests a).task .order = ⟨a :: [.handBack 1], true⟩ ∧
    (requests a).hold.holds.filter (fun h => h.slot == some 3) = [hold1 0 (some 3)] ∧ (requests a).room 5 ∧
    (∀ n, (requests a).passedWrite n = none) ∧ 0x160 ≤ ((requests a).seatAddr 7 1).toNat := by decide +kernel

/-- The questions to the hold unit. -/
def questions (hs : List Hold) (vouchers : Nat := 0) : Part :=
  ordering (slot3 .assembling vouchers) hs [.closeHolds 3, .place 0x426F 0x100, .finish 2]
def retireQuestion (hs : List Hold) : Part :=
  (access (holding hs) 0 0x7F (some 0x8003) true).setTask .shows ⟨[.retireHolds 0 7], true⟩

theorem test_hold_question : (questions [hold1 0 none]).freeFor .hold ∧
    (questions []).task .order = ⟨[.closeHolds 3, .place 0x426F 0x100, .finish 2], true⟩ ∧
    (heldSeats (questions [hold1 0 none]) 2 7 (slot3 .assembling).seats).isSome = true ∧
    (heldSeats (questions []) 2 7 (slot3 .assembling).seats).isSome = false ∧ (slot3 .assembling).voucherCount = 0 ∧
    (slot3 .assembling 1).voucherCount = 1 ∧ (questions [hold1 0 none] 1).busy .directory = false ∧
    ((questions [hold1 0 none] 1).setTask .directory ⟨[.finish 2], false⟩).busy .directory = true ∧
    ((questions [hold1 0 none] 1).setTask .directory ⟨[.finish 2], false⟩).freeFor .hold ∧
    ({ questions [hold1 0 none] 1 with directory := { base.directory with free := [] } } : Part).directory.free.length < 1 ∧
    (retireQuestion []).freeFor .hold ∧ ((retireQuestion []).lane 0).access = some ⟨0x7F, some 0x8003, true, false⟩ ∧
    (retireQuestion []).task .shows = ⟨[.retireHolds 0 7], true⟩ ∧
    (∃ h ∈ (retireQuestion [hold1 0 none]).hold.holds, h.showNo = 7) ∧
    (∀ h ∈ (retireQuestion []).hold.holds, h.showNo ≠ 7) ∧ ((retireQuestion []).showAt 7).state ≠ .vacant := by
  decide +kernel

/-! ### Order slots -/

/-- Lane `n` writes word `k` of slot 3. -/
def slotWrite (n : Lane) (k : Nat) (v : Word) (x : Shadow) : Part :=
  writes n (addrOf (0x4260 + k)) v (ordering x [hold1 0 none])

theorem test_assembly : (slotWrite 2 0 7 Shadow.initial).offers 2 0x4260 7 (.record 3 0) .order ∧
    (slotWrite 5 0 7 Shadow.initial).offers 5 0x4260 7 (.record 3 0) .order ∧ (base.lane 5).role ≠ .kiosk ∧
    (slotWrite 2 14 7 { slot3 .assembling with cursor := 14 }).offers 2 0x426E 7 (.record 3 14) .order ∧
    (slotWrite 2 14 7 (slot3 .assembling)).offers 2 0x426E 7 (.record 3 14) .order ∧
    (slotWrite 3 14 7 (slot3 .assembling)).offers 3 0x426E 7 (.record 3 14) .order ∧
    (slotWrite 2 14 7 (slot3 .queued)).offers 2 0x426E 7 (.record 3 14) .order ∧
    ((slotWrite 2 14 7 (slot3 .assembling)).slot 3).owner = some 2 ∧ ((lapsed0.lane 0).lapsed = true) ∧
    (writes 2 0x48FF 7 (ordering (slot3 .assembling))).offers 2 0x48FF 7 (.spool 3) .order ∧
    (writes 2 0x4800 7 (ordering (slot3 .assembling))).offers 2 0x4800 7 (.spool 3) .order := by decide +kernel

theorem test_close : (slotWrite 2 15 0x0100 (slot3 .assembling 1)).offers 2 0x426F 0x0100 (.control 3) .order ∧
    (slot3 .assembling 1).cursor = 15 ∧
    closeShow (slotWrite 2 15 0x0100 (slot3 .assembling 1)) (slot3 .assembling 1) = true ∧
    closeForm (slotWrite 2 15 0x0100 (slot3 .assembling 1)) (slot3 .assembling 1) = true ∧
    heldSeats (slotWrite 2 15 0x0100 (slot3 .assembling 1)) 2 (slot3 .assembling 1).showNo (slot3 .assembling 1).seats
      = some [hold1 0 none] ∧
    (slot3 .assembling 1).voucherCount ≤ base.directory.free.length ∧
    base.log.used + base.log.reserved + 2 ≤ base.log.capacity ∧
    0 < ([hold1 0 none].map fun h => (slotWrite 2 15 0x0100 (slot3 .assembling 1)).classPrice h.cls).sum ∧
    closeShow (slotWrite 2 15 0x0100 { slot3 .assembling with words := (slot3 .assembling).words.set 0 (some 16) })
      { slot3 .assembling with words := (slot3 .assembling).words.set 0 (some 16) } = false ∧
    closeForm (slotWrite 2 15 0x0100 { slot3 .assembling with words := (slot3 .assembling).words.set 2 (some 6) })
      { slot3 .assembling with words := (slot3 .assembling).words.set 2 (some 6) } = false := by decide +kernel
theorem test_close_free : (ordering (slot3 .assembling)).queue = [] ∧
    (({ slotWrite 2 15 0x0100 (slot3 .assembling) with order :=
        { (slotWrite 2 15 0x0100 (slot3 .assembling)).order with prices := Vector.replicate 24 0 } } : Part)).classPrice 3 = 0 ∧
    ((slot3 .assembling).word 1).toNat / 256 % 16 = 0 ∧ 3 ∉ (slotWrite 2 15 0x0100 (slot3 .assembling)).order.payQueue := by
  decide +kernel
theorem test_close_idle : (slotWrite 2 15 0x0100 (slot3 .assembling 1)).waiters = [] ∧
    (∀ b ∈ [Block.clock, .shows, .hold, .order, .directory, .log, .attention, .print, .sweep, .setup, .tender, .side 0,
      .side 1, .lane 0, .lane 1, .lane 2, .lane 3, .lane 4, .lane 5],
      (slotWrite 2 15 0x0100 (slot3 .assembling 1)).busy b = false) ∧ base.directory.free.Nodup := by decide +kernel

theorem test_control : (slotWrite 2 15 0x0200 (slot3 .queued)).offers 2 0x426F 0x0200 (.control 3) .order ∧
    (slotWrite 2 15 0x0300 (slot3 .done)).offers 2 0x426F 0x0300 (.control 3) .order ∧
    (slot3 .done).state.isEnd = true ∧ (slot3 .queued).state.isEnd = false ∧
    (slotWrite 0 15 0x0300 (slot3 .done)).offers 0 0x426F 0x0300 (.control 3) .order ∧
    (slotWrite 0 15 0x0500 (slot3 .printHalted)).offers 0 0x426F 0x0500 (.control 3) .order ∧
    (slotWrite 2 15 0x0500 (slot3 .printHalted)).offers 2 0x426F 0x0500 (.control 3) .order ∧
    Control.ofWord 0x0500 = .forceDone ∧ Control.ofWord 0x0501 = .undefined ∧
    (slotWrite 3 15 0x0200 (slot3 .queued)).offers 3 0x426F 0x0200 (.control 3) .order ∧
    (slotWrite 2 15 0x0200 Shadow.initial).offers 2 0x426F 0x0200 (.control 3) .order := by decide +kernel

theorem test_reprint : (slotWrite 2 15 0x0402 (slot3 .printHalted)).offers 2 0x426F 0x0402 (.control 3) .order ∧
    Control.ofWord 0x0402 = .reprint (.printer 1) ∧ (slot3 .done).reprints < 2 ∧
    2 ≤ ({ slot3 .done with reprints := 2 } : Shadow).reprints ∧ base.busy .print = false ∧ 1 ≤ base.log.room ∧
    fullLog.log.room = 0 ∧ fullLog.busy .log = false := by decide +kernel

/-- Lane 2's slots are to be torn down. -/
def tearing : Part := (ordering (slot3 .queued)).setLane 2 fun l => { l with teardownDue := true }

def tearingQueued : Part := { tearing with order := { tearing.order with payQueue := [3] } }

theorem test_teardown : tearing.freeFor .order ∧ tearing.accepted = true ∧ (tearing.lane 2).teardownDue = true ∧
    (∀ sl, (sl ∈ (slotWrite 2 15 0x0200 (slot3 .queued)).order.payQueue → sl = 3)) ∧ tearingQueued.listsOk ∧
    tearingQueued.freeFor .order ∧ (tearing.slot 3).owner = some 2 ∧ (tearing.slot 3).state = .queued := by decide +kernel

/-! ### Vouchers and the log -/

/-- Voucher 255 in a state; lane 5 writes its redeem word. -/
def redeems (state : VoucherState) (v : Word) (expiry : Nat) (n : Lane := 5) (p : Part := base) : Part :=
  writes n 0x60FF v (p.setVoucher 255 fun _ => ⟨state, 1, 7, 3, 0x1234, expiry, none⟩)

theorem test_redeem : (redeems .issued 0x1234 29972).offers 5 0x60FF 0x1234 (.redeem 255) .directory ∧
    base.clock.minuteNo = 29972 ∧ (base.lane 5).role = .counter ∧ (redeems .issued 0x1234 29971).laneWrite 5 ≠ none ∧
    (redeems .issued 0x1235 29972).offers 5 0x60FF 0x1235 (.redeem 255) .directory ∧
    (redeems .redeemed 0x1234 29972).offers 5 0x60FF 0x1234 (.redeem 255) .directory ∧
    (redeems .free 0x1234 29972).offers 5 0x60FF 0x1234 (.redeem 255) .directory ∧
    (redeems .issued 0x1234 29972 2).offers 2 0x60FF 0x1234 (.redeem 255) .directory ∧
    (redeems .issued 0x1234 29972 5 fullLog).log.room = 0 ∧
    (redeems .issued 0x1234 29972 5 sweeping).treatment 5 0x60FF = .refuseSweeping ∧
    (redeems .issued 0x1234 29972 5 sweeping).region 0x60FF ≠ .seat := by decide +kernel

theorem test_voucher_requests :
    (ordering (slot3 .assembling 1) [] [.closeReserve 3 [3], .place 0x426F 0x100, .finish 2]).freeFor .directory ∧
    0 < (slot3 .assembling 1).voucherCount ∧ (slot3 .assembling 1).voucherCount ≤ base.directory.free.length ∧
    0 < ([3].map (ordering (slot3 .assembling 1)).classPrice).sum ∧
    (ordering { slot3 .approved 2 with vouchers := [0, 255] } [] [.issue 3]).freeFor .directory ∧
    ({ slot3 .approved 2 with vouchers := [0, 255] } : Shadow).vouchers.Nodup ∧
    (ordering { slot3 .approved 2 with vouchers := [0, 255] } [] [.issue 3]).task .order = ⟨.issue 3 :: [], true⟩ ∧
    (ordering { slot3 .queued 2 with vouchers := [0, 255] } [] [.returnVouchers 3]).task .order
      = ⟨.returnVouchers 3 :: [], true⟩ ∧
    (base.setTask .shows ⟨[.retireVouchers 7], true⟩).freeFor .directory ∧
    (base.setTask .shows ⟨[.retireVouchers 7], true⟩).task .shows = ⟨.retireVouchers 7 :: [], true⟩ ∧
    base.room (4 * 2 + 4) ∧ (0x61C9 : Word) + 0x9E37 = 0 := by decide +kernel

theorem test_log_requests :
    (ordering (slot3 .assembling) [] [.closeLog 3, .place 0x426F 0x100, .finish 2]).freeFor .log ∧
    2 ≤ ({ base.log with used := 30 } : LogWriter).room ∧ ({ base.log with used := 31 } : LogWriter).room < 2 ∧
    (ordering (slot3 .queued) [] [.handBack 1]).freeFor .log ∧
    (ordering (slot3 .queued) [] [.writeReserved (setupDraft .powerOn)]).freeFor .log ∧
    (ordering (slot3 .queued) [] [.writeReserved (setupDraft .powerOn)]).queue = [] ∧
    (∀ n, (ordering (slot3 .queued)).passedWrite n = none) ∧
    0x160 ≤ base.base (·.logBase) + 8 * base.log.write ∧ base.base (·.logBase) + 8 * base.log.write + 8 ≤ 0x40000 ∧
    ((access base 5 0x60FF (some 1) true).setTask .directory ⟨[.redeemLog 5 255 1172], false⟩).freeFor .log ∧
    ((access base 0 0x7F (some 0x8003) true).setTask .shows ⟨[.retireLog 0 7], true⟩).freeFor .log ∧
    ((access base 2 0x426F (some 0x402) true).setTask .order ⟨[.reprintLog 2 3 .preferred 0x426F 0x402], true⟩).freeFor .log ∧
    ((access base 0 0x1001 (some 0x8000) true).setTask .hold
      ⟨[.editLog 0 0x1001 0xF800 (setupDraft .powerOn)], true⟩).freeFor .log ∧
    ((access base 0 0x1001 (some 0x8000) true).lane 0).access = some ⟨0x1001, some 0x8000, true, false⟩ ∧
    1 ≤ base.log.room ∧ fullLog.log.room = 0 ∧ ({ base.log with used := 31 } : LogWriter).room = 1 ∧
    ({ base.log with used := 30 } : LogWriter).room = 2 ∧ 2 * 16 ≤ base.log.capacity ∧ base.log.capacity < 2 * (16 + 1) := by
  decide +kernel

/-! ### The tender link -/

/-- A transaction whose status byte is to be clocked out, on a link with requests. -/
def transaction (p : Part) (rs : List LinkReq := []) (handed : Bool := false) : Part :=
  { p with tender := { p.tender with
      requests := rs, handed, timeout := 60
      shift := some ⟨false, 0, 0, none, 0xC0, some 0xC0, [], [], none, 0, .none⟩ } }
/-- Slot 3 QUEUED at the head of the payment queue. -/
def queued3 : Part :=
  let p := ordering { slot3 .queued with amount := some 500 }
  { p with order := { p.order with payQueue := [3] } }
/-- A request list with a fetch take and results. -/
def someRequests (k : Nat) : List LinkReq :=
  List.replicate k ⟨3, 1, .result 1 authSpaces, true⟩

/-- The link with a second event still to examine. -/
def examined (p : Part) (quiet : Nat) (raised : Bool) : Part :=
  { p with tender := { p.tender with examine := true, quiet, quietRaised := raised } }

theorem test_transaction : base.tender.shift = none ∧ (transaction base).tender.shift ≠ none ∧ base.calm ∧
    (examined base 19 true).tender.examine = true ∧ (examined (transaction base) 3 true).tender.shift ≠ none ∧
    (examined base 19 true).busy .tender = false ∧ (examined base 19 true).tender.shift = none := by
  decide +kernel

theorem test_link : (transaction queued3).tender.shift
      = some ⟨false, 0, 0, none, 0xC0, some 0xC0, [], [], none, 0, .none⟩ ∧
    (transaction queued3).tender.sent = [] ∧ (transaction queued3 (someRequests 3)).order.payQueue = 3 :: [] ∧
    (transaction queued3 (someRequests 3)).order.window.length < 4 ∧
    (transaction queued3 (someRequests 3)).tender.requests.length < 4 ∧
    (∀ r ∈ (transaction queued3 (someRequests 3)).tender.requests, r.kind.isFetch = false) ∧
    4 ≤ (transaction queued3 (someRequests 4)).tender.requests.length ∧ (transaction base).order.payQueue = [] ∧
    (transaction fresh).mode ≠ .running ∧
    (∃ r ∈ (transaction queued3 [⟨3, 1, .fetch 60, true⟩]).tender.requests, r.kind.isFetch = true) ∧
    (List.replicate 13 (0 : Byte) ++ [7]).length = 14 ∧ ([3, 1, 1, 32, 32, 32, 32, 32, 32] : List Byte).length = 9 := by
  decide +kernel

/-- A transaction past a whole frame of a command, with a verdict to deliver. -/
def delivering (command : Byte) (byteTime : Nat) (d : Delivery) : Part :=
  { base with tender := { base.tender with
      shift := some ⟨false, byteTime, 0, some command, 0, none, [], [], none, 0, d⟩ } }

theorem test_delivery : ∀ d ∈ [Delivery.none, .waiting, .decided .taken, .decided .stale],
    (delivering 0x33 11 d).calm ∧ (delivering 0x44 4 d).calm ∧
    (delivering 0x33 11 d).tender.shift = some ⟨false, 11, 0, some 0x33, 0, none, [], [], none, 0, d⟩ ∧
    (delivering 0x44 4 d).tender.shift.map (·.dead) = some false := by decide +kernel

/-- Slot 3 in a state with sequence 1, named by the head request; the request handed or not. -/
def headed (state : SlotState) (kind : LinkKind) (late : Option Late := none) (handed : Bool := true) (slot : Nat := 3) : Part :=
  { transaction (ordering { slot3 state with amount := some 500, seq := some 1, deadline := some 0, late })
      [⟨slot, 1, kind, true⟩] handed with resetLow := false }

theorem test_settle : (headed .tendering (.result 1 authSpaces) none false).calm ∧
    (headed .tendering (.result 1 authSpaces) none false).tender.requests = ⟨3, 1, .result 1 authSpaces, true⟩ :: [] ∧
    (headed .tendering (.result 1 authSpaces) none false).tender.handed = false ∧
    (headed .tendering (.result 1 authSpaces) none false).mode = .running ∧
    (headed .tendering .abandon none false 24).tender.requests = ⟨24, 1, .abandon, true⟩ :: [] ∧
    ((headed .timedOut (.result 3 authSpaces) none false).slot 3).late = none ∧
    ((headed .timedOut (.result 3 authSpaces) (some .declined) false).slot 3).late ≠ none ∧
    ((headed .tendering .abandon none false).slot 3).seq = some 1 := by decide +kernel

theorem test_fetch_take : (transaction queued3 [⟨3, 1, .fetch 60, true⟩] true).freeFor .order ∧
    (transaction queued3 [⟨3, 1, .fetch 60, true⟩] true).tender.handed = true ∧
    (transaction queued3 [⟨3, 1, .fetch 60, true⟩] true).order.payQueue.head? = some 3 ∧
    ((transaction queued3 [⟨3, 1, .fetch 60, true⟩] true).slot 3).state = .queued ∧
    (transaction queued3 [⟨3, 1, .fetch 60, true⟩] true).busy .attention = false ∧
    (transaction queued3 [⟨3, 1, .fetch 60, true⟩] true).room 4 ∧
    ((headed .cancelled (.fetch 60)).slot 3).state ≠ .queued ∧ (headed .cancelled (.fetch 60)).freeFor .order := by
  decide +kernel

theorem test_outcomes : (headed .tendering (.result 3 authSpaces)).freeFor .order ∧
    (headed .tendering (.result 3 authSpaces)).busy .print = false ∧
    (headed .tendering (.result 3 authSpaces)).accepted = true ∧
    ((headed .tendering (.result 3 authSpaces)).slot 3).state = .tendering ∧
    ((headed .tendering (.result 3 authSpaces)).slot 3).seq = some 1 ∧
    ((headed .declined (.result 1 authSpaces)).slot 3).state = .declined ∧
    ((headed .timedOut (.result 2 authSpaces)).slot 3).late = none ∧
    ((headed .tendering .abandon).slot 3).deadline = some 0 ∧ reached (headed .tendering .abandon).clock.run 0 = true ∧
    ({ (headed .tendering .abandon).order with due := [3] } : OrderUnit).due = 3 :: [] := by decide +kernel

theorem test_quiet : (examined base 19 false).freeFor .tender ∧ (examined base 19 false).orderWaits = false ∧
    (examined queued3 19 false).tender.examine = true ∧ (examined queued3 19 false).orderWaits = true ∧
    (examined queued3 19 false).tender.shift = none ∧ 20 ≤ (examined queued3 19 false).tender.quiet + 1 ∧
    (examined queued3 18 false).tender.quiet + 1 < 20 ∧ (examined queued3 20 true).tender.quietRaised = true ∧
    (examined (transaction queued3) 3 false).tender.shift ≠ none ∧ (examined queued3 19 false).freeFor .tender ∧
    (examined queued3 19 false).busy .attention = false ∧ (examined queued3 19 false).accepted = true := by decide +kernel

/-- 11.5: the examination that follows the teardown of the only QUEUED slot finds the queue empty; before it, it counts. -/
theorem test_examination_order :
    (carryExamination (examined queued3 9 false)).tender.quiet = 10 ∧
    (carryExamination ((examined queued3 9 false).leaveQueue .cancelled 3)).tender.quiet = 0 := by decide +kernel

/-! ### Printing -/

/-- An APPROVED job of slot 3 handed off, and at the head of printer 1's queue. -/
def handingOff : Part := ordering (slot3 .approved) [] [.handoff 3 .preferred]
def jobWaits : Part := (ordering (slot3 .approved)).setPrintQueue 1 fun _ => [3]

theorem test_jobs : handingOff.freeFor .print ∧ handingOff.task .order = ⟨.handoff 3 .preferred :: [], true⟩ ∧
    ((handingOff.setSide 0 fun x => { x with state := .offline }).sideAt 0).state = .offline ∧
    jobWaits.freeFor (.side 1) ∧ jobWaits.printQueue 1 = 3 :: [] ∧ (jobWaits.sideAt 1).state = .idle ∧ jobWaits.room 2 ∧
    jobWaits.busy .order = false ∧ (jobWaits.slot 3).state = .approved := by decide +kernel

/-- A STREAMING side 1 of slot 3, whose run stands at a body length and a number of strips placed. -/
def streams (len : Option Nat) (placed : Nat) : Part :=
  (ordering (slot3 .printing)).setSide 1 fun x => { x with state := .streaming, job := some 3, bodyLen := len, placed }
/-- One byte short of a full block, asking for word 1. -/
def almostFull : Part :=
  let p := (streams (some 40) 0).setSide 1 fun x => { x with stage := .filling, buf := List.replicate 31 0x20 }
  { p.setTask (.side 1) ⟨[.fill 1], false⟩ with print := { p.print with reader := [1] } }

/-- A block of `k` bytes that asks for word 1 of a body of `len` bytes. -/
def partFilled (k len : Nat) : Part :=
  almostFull.setSide 1 fun x => { x with buf := List.replicate k 0x20, bodyLen := some len }

theorem test_part_filled : (∀ k ∈ [(8, 1), (9, 40)], let p := partFilled k.1 k.2
      p.waiters = [] ∧ p.accepted = true ∧ p.print.reader = 1 :: [] ∧ (p.sideAt 1).job = some 3 ∧
      (p.sideAt 1).bodyLen = some k.2 ∧ (p.sideAt 1).offset = 0 ∧ (0 : Nat) < k.2 ∧
      (p.sideAt 1).word.map (·.1) ≠ some (1 + 0 / 2) ∧ p.task (.side 1) = ⟨[.fill 1], false⟩ ∧
      (p.sideAt 1).placed < (p.slot 3).seatCount + (p.slot 3).vouchers.length) ∧
    32 < ((partFilled 9 40).sideAt 1).buf.length + 24 ∧ 32 < ((partFilled 8 1).sideAt 1).buf.length + 1 + 24 ∧
    queueFind ({ partFilled 9 40 with queue := [(0x4801, 0x1D20)] } : Part).queue ((partFilled 9 40).spoolAddr 3 1)
      = some 0x1D20 ∧
    queueFind ({ partFilled 8 1 with queue := [(0x4801, 0x4120)] } : Part).queue ((partFilled 8 1).spoolAddr 3 1)
      = some 0x4120 := by decide +kernel

/-- Source: R123. Block 1 of 6.8: a strip marker with 20 bytes of room closes the block as it stands. -/
theorem test_block_closes_before_strip :
    let x := (after .spoolRead { partFilled 12 40 with queue := [(0x4801, 0x1D20)], waiters := [.side 1] }).sideAt 1
    x.stage = .ready ∧ x.buf.length = 12 ∧ x.offset = 0 ∧ x.placed = 0 := by decide +kernel

theorem test_fill : (streams none 0).freeFor (.side 1) ∧ ((streams none 0).sideAt 1).bodyLen = none ∧
    1 ∉ (streams none 0).print.reader ∧ ((streams (some 0) 0).sideAt 1).bodyLen = some 0 ∧
    0 < ((streams (some 0) 0).slot 3).seatCount + ((streams (some 0) 0).slot 3).vouchers.length ∧
    ((streams (some 0) 1).slot 3).seatCount + ((streams (some 0) 1).slot 3).vouchers.length ≤ 1 ∧
    (streams (some 0) 0).print.exhausted = false ∧ (streams (some 0) 0).print.serial ≠ 0xFFFFFFFF ∧
    almostFull.print.reader = 1 :: [] ∧ (almostFull.sideAt 1).job = some 3 ∧ (almostFull.sideAt 1).buf.length = 31 ∧
    (almostFull.sideAt 1).bodyLen = some 40 ∧ (almostFull.sideAt 1).word.map (·.1) ≠ some 1 ∧
    almostFull.task (.side 1) = ⟨[.fill 1], false⟩ ∧ almostFull.firstAsker = some .printReader ∧
    queueFind almostFull.queue (almostFull.spoolAddr 3 1) = none ∧ hiByte ((st almostFull).mem.read 0x4801) ≠ 0x1D ∧
    base.print.reader = [] := by decide +kernel

/-- A side with a block of a kind ready, and one in its exchange. -/
def ready (kind : BlockKind) : Part :=
  if kind = .status then base.setSide 1 fun x => { x with state := .faulted, pollDue := true }
  else (streams (some 0) 1).setSide 1 fun x => { x with stage := .ready, kind, buf := [0x41] }
def inExchange (kind : BlockKind) (busy : Nat) : Part :=
  let p := (ready kind).setSide 1 fun x =>
    { x with busy, stage := if kind = .status then .empty else .exchange, state := if kind = .status then .offline else x.state }
  { p with print := { p.print with exchange := some ⟨1, kind, false⟩ } }

theorem test_blocks : (∀ kind ∈ [BlockKind.data, .cut, .status], (ready kind).nextServed = some 1 ∧
      ((ready kind).sideAt 1).nextKind = kind ∧ (ready kind).calm ∧ (ready kind).accepted = true) ∧
    ((streams (some 0) 1).setTask (.side 1) ⟨[.askProgress 1 (some (0, 1)) (some 9)], false⟩).freeFor .order ∧
    ((streams (some 0) 1).setTask (.side 1) ⟨[.askProgress 1 (some (0, 1)) (some 9)], false⟩).task (.side 1)
      = ⟨[.askProgress 1 (some (0, 1)) (some 9)], false⟩ ∧
    ((streams (some 0) 1).slot 3).state = .printing ∧ ((streams (some 0) 1).sideAt 1).job = some 3 := by decide +kernel

theorem test_answers : (∀ kind ∈ [BlockKind.data, .cut], (inExchange kind 39).freeFor (.side 1) ∧
      (inExchange kind 39).accepted = true ∧ (inExchange kind 39).print.exchange = some ⟨1, kind, false⟩ ∧
      ((inExchange kind 39).sideAt 1).job = some 3 ∧ 40 ≤ ((inExchange kind 39).sideAt 1).busy + 1 ∧
      ((inExchange kind 38).sideAt 1).busy + 1 < 40 ∧ (inExchange kind 38).room 3 ∧
      (inExchange kind 38).busy .order = false ∧ (inExchange kind 38).busy .attention = false ∧ ((inExchange kind 38).slot 3).state = .printing) ∧
    (inExchange .status 0).print.exchange = some ⟨1, .status, false⟩ ∧ (inExchange .status 0).freeFor (.side 1) ∧
    ((inExchange .status 0).sideAt 1).state = .offline ∧ (inExchange .status 0).room 2 ∧
    (inExchange .status 0).busy .attention = false := by
  decide +kernel

/-! ### Setup -/

/-- A captured header that passes the checks, as far as its cursor goes. -/
def header (cursor : Nat) (second : Word) (roles : Word := 0x0954) : Part :=
  { fresh with setup := { fresh.setup with
      cursor
      header := #v[some 2, some second, some 0x42, some 0x45, some 0x5D, some 0x61, some 5, some 120, some 0, some 60,
        some roles, some 0, some 0, some 4, some 4, some 4, some 4, some 0, some 20, some 1172, some 1, some 0, some 0,
        some 0, some 0, some 0, some 0, some 0, some 0, some 0, some 0] } }

theorem test_header : (writes 0 0x1E 0 (header 30 64)).laneWrite 0 = some (0x1E, 0) ∧
    (writes 0 0x1E 0 (header 30 64)).treatment 0 0x1E = .capture 30 ∧
    (writes 0 0x1E 0 (header 30 64)).firstAsker = some (.lane 0) ∧
    (writes 0 0 0 (header 30 64)).treatment 0 0 = .capture 0 ∧ (writes 0 7 0 (header 30 64)).treatment 0 7 = .capture 7 ∧
    queueFind (header 30 64).queue 0x1E = none ∧
    (∀ n : Lane, (writes n 0x1E 0).offers n 0x1E 0 .headerWord .setup) := by decide +kernel

theorem test_accept : (writes 3 0x1F wordAccept fresh).offers 3 0x1F wordAccept .headerClose .setup ∧
    fresh.accepted = false ∧ wordAccept ≠ wordWithdraw ∧ (writes 3 0x1F wordAccept fresh).room 1 ∧
    (∀ n, (writes 3 0x1F wordAccept fresh).passedWrite n = none) ∧
    (writes 0 0x1F wordAccept (header 31 64)).offers 0 0x1F wordAccept .headerClose .setup ∧
    (header 31 64).setup.cursor = 31 ∧ headerCheck (header 31 64).setup = none ∧
    (∀ n, (header 31 64).passedWrite n = none) ∧
    headerCheck (header 31 65).setup = some (3, 1) ∧ (header 30 64).setup.cursor ≠ 31 ∧
    (header 31 64).busy .attention = false ∧ (header 31 64).mode = .transparent ∧ (header 31 64).room 6 ∧
    queueFind (header 31 64).queue 0xC0 = none ∧
    (writes 0 0x1F wordAccept).offers 0 0x1F wordAccept .headerClose .setup ∧ base.accepted = true := by decide +kernel

/-- A block still to take its withdrawal values, and a poll still to be discarded, at an ACCEPT. -/
def unsettled : Part := (writes 0 0x1F wordAccept (header 31 64)).setTask .hold ⟨[.withdraw .hold], true⟩

theorem test_accept_waits : unsettled.offers 0 0x1F wordAccept .headerClose .setup ∧
    (∃ b ∈ withdrawnBlocks, .withdraw b ∈ (unsettled.task b).acts) ∧
    (∀ b ∈ withdrawnBlocks, .withdraw b ∉ ((writes 0 0x1F wordAccept (header 31 64)).task b).acts) ∧
    (header 31 64).print.exchange = none := by decide +kernel

/-- Side 1 is polled; the exchange of a part that has been withdrawn is to be discarded. -/
def polled : Part := { writes 0 0x1F wordWithdraw with print := { base.print with exchange := some ⟨1, .status, false⟩ } }
def discards : Part := { fresh with print := { fresh.print with exchange := some ⟨1, .status, true⟩ } }

theorem test_withdraw : (writes 0 0x1F wordWithdraw).idle ∧ polled.idle ∧
    polled.offers 0 0x1F wordWithdraw .headerClose .setup ∧ (∀ sh, (base.showAt sh).state ≠ .opening) ∧
    polled.print.exchange ≠ none ∧ discards.calm ∧ discards.busy .print = false ∧ (∀ d, discards.busy (.side d) = false) ∧
    discards.print.exchange = some ⟨1, .status, true⟩ ∧ polled.busy .clock = false ∧ (show0 .opening 7).mode = .running ∧
    ((show0 .opening 7).showAt 0).state = .opening ∧
    (writes 0 0x1F wordWithdraw).offers 0 0x1F wordWithdraw .headerClose .setup ∧ base.mode = .running ∧
    base.sweep.current = none ∧ base.sweep.requests = [] ∧ base.room 2 ∧
    (∀ sl, (base.slot sl).state ≠ .tendering ∧ (base.slot sl).state ≠ .approved ∧ (base.slot sl).state ≠ .printing) ∧
    ((ordering (slot3 .printing)).slot 3).state = .printing ∧ sweeping.mode = .sweeping ∧
    (writes 0 0x1F wordWithdraw sweeping).offers 0 0x1F wordWithdraw .headerClose .setup :=
  ⟨idle_of_work rfl rfl, idle_of_work rfl rfl, by decide +kernel⟩

/-- A redemption of lane 5 waits for its log entry. -/
def redeeming : Part :=
  (access (writes 0 0x1F wordWithdraw) 5 0x60FF (some 1) true).setTask .directory ⟨[.redeemLog 5 255 1172], true⟩

theorem test_withdraw_undecided : redeeming.offers 0 0x1F wordWithdraw .headerClose .setup ∧
    (redeeming.lane 5).access = some ⟨0x60FF, some 1, true, false⟩ ∧
    redeeming.task .directory = ⟨[.redeemLog 5 255 1172], true⟩ ∧ 0x160 ≤ (0x60FF : Addr).toNat ∧
    redeeming.busy .order = false ∧ (redeeming.lane 0).lapsed = false := by decide +kernel

/-- The directory's work asked for, going on, and ended. -/
def directoryWork (w : DirectoryWork) (acts : List Act := []) : Part :=
  { sweeping.setTask .directory ⟨acts, false⟩ with setup := { sweeping.setup with work := w, sweepsLeft := [] } }

theorem test_directory_work : (∀ k, (directoryWork (.asked k)).freeFor .directory ∧
      (directoryWork (.asked k)).accepted = true ∧ (directoryWork (.asked k)).setup.work = .asked k) ∧
    queueFind (directoryWork (.asked true)).queue ((directoryWork (.asked true)).voucherAddr 0 0) = none ∧
    (directoryWork .running [.rebuild 254 [2, 1, 0]]).task .directory = ⟨[.rebuild 254 [2, 1, 0]], false⟩ ∧
    (directoryWork .running [.rebuild 254 [2, 1, 0]]).calm ∧
    (directoryWork .running [.rebuild 254 [2, 1, 0]]).headRead .setup = none ∧
    (directoryWork .running [.rebuild 254 [2, 1, 0]]).firstAsker = some .sweepReader ∧
    queueFind (directoryWork .running).queue ((directoryWork .running).voucherAddr 255 0) = none ∧
    (directoryWork .ended).freeFor .setup ∧ (directoryWork .ended).mode = .sweeping ∧
    (directoryWork .ended).setup.work = .ended ∧ (directoryWork .ended).setup.sweepsLeft = [] ∧
    (directoryWork .ended).room 1 ∧ (directoryWork .running [.rebuild 255 [2, 1, 0]]).room 8 ∧
    (∀ n, (directoryWork .running [.rebuild 255 [2, 1, 0]]).passedWrite n = none) ∧
    (directoryWork .running [.rebuild 255 [2, 1, 0]]).firstAsker = some .sweepReader ∧
    (directoryWork .ended).busy .attention = false := by decide +kernel

/-- An acceptance in progress, with acts of the setup controller and a queue, its own block waiting or not. -/
def accepting (acts : List Act) (q : List (Addr × Word) := []) (waits : Bool := false) : Part :=
  { (header 31 64).setTask .setup ⟨acts, false⟩ with
    setup := { (header 31 64).setup with part := .checking }, windows := base.windows
    log := { base.log with capacity := 32 }, queue := q, waiters := if waits then [.setup] else [] }
/-- Fifteen entries behind the head of a full queue. -/
def fullQueue : List (Addr × Word) := (List.range 15).map fun k => (addrOf (0x4400 + k), 0)

theorem test_acceptance :
    (accepting [.priceRead 22, .initLog]).firstAsker = some .sweepReader ∧
    (accepting [.priceRead 22, .initLog]).task .setup = ⟨.priceRead 22 :: [.initLog], false⟩ ∧
    (accepting [.priceRead 23, .initLog, .initSlots 0, .initLanes]).firstAsker = some .sweepReader ∧
    (accepting [.priceRead 23, .initLog, .initSlots 0, .initLanes]).base (·.logBase) = 0x6100 ∧
    (accepting [.priceRead 23, .initLog, .initSlots 0, .initLanes]).base (·.orderBase) = 0x4200 ∧
    (accepting [.place 0x4210 0, .initSlots 23] ((5, 1) :: fullQueue) true).firstAsker = some .drain ∧
    (accepting [.place 0x4210 0, .initSlots 23] ((5, 1) :: fullQueue) true).orderAddr 23 16 = 0x44F0 ∧
    (0x4210 : Addr) ∉ ((5, 1) :: fullQueue).map (·.1) ∧ (0x44F0 : Addr) ∉ (0x4210 : Addr) :: fullQueue.map (·.1) ∧
    (0x108 : Addr) ∉ (0x4210 : Addr) :: fullQueue.map (·.1) := by decide +kernel

/-- Source: R59, R171. On a full queue the part stays in CHECKING until its state word has space; then it is SWEEPING and the
ACCEPT write has ended. -/
theorem test_acceptance_ends :
    let p := access (accepting [.place 0x20 (partStateWord .sweeping .powerOn), .enterSweeping, .finish 0]
      ((5, 1) :: fullQueue) true) 0 0x1F (some wordAccept) true
    let u := settle { p with queue := [] }
    (settle p).mode = .checking ∧ u.mode = .sweeping ∧ (u.lane 0).access = none ∧
    queueFind u.queue 0x20 = some (partStateWord .sweeping .powerOn) := by decide +kernel

/-- On a full queue side 1 has its printer state word still to place, and the hold unit the state word of lane 2. -/
def withdrawsOnFull : Part :=
  let p := (writes 0 0x1F wordWithdraw).setTask (.side 1) ⟨[.sync (.printer 1 true)], false⟩
  { p.setTask .hold ⟨[.sync (.laneState 2)], false⟩ with
    queue := (5, 1) :: fullQueue, waiters := [.side 1, .hold], print := { p.print with serial := 9 } }

/-- Source: R178, R179. The print engine keeps its values until the side's decision is complete, the lane state word is
placed as it was last decided, and the write ends when the part state word has been placed. -/
theorem test_withdraw_on_full :
    let t := after (.withdraw 0) withdrawsOnFull
    let u := settle { t with queue := [] }
    t.mode = .transparent ∧ t.print.serial = 9 ∧ t.wait 0 = true ∧ t.withdrawing = true ∧
    u.print.serial = 0 ∧ (u.lane 0).access = none ∧ u.withdrawing = false ∧
    queueFind u.queue 0x1F = some wordWithdraw ∧ queueFind u.queue 0x20 = some (partStateWord .transparent .withdraw) ∧
    queueFind u.queue (laneAddr 2 8) = some (partWord withdrawsOnFull (.laneState 2)).2 := by decide +kernel

/-- The eighth word of a show record is read. -/
def showsRead (sh : Nat) (got : List Word) : Part :=
  accepting [.showRead sh got, .clockStart, .place (addrOf 0x20) (partStateWord .sweeping (header 31 64).setup.cause),
    .enterSweeping, .finish 0]

theorem test_show_read : (showsRead 15 [0, 1, 20, 1439, 0, 0, 1]).firstAsker = some .sweepReader ∧
    (showsRead 15 [0, 1, 20, 1439, 0, 0, 1]).MayOpen 15 (fun k => ([0, 1, 20, 1439, 0, 0, 1] : List Nat).getD k.val 0)
      (20 * 1440 + 1172) ∧
    ¬(showsRead 3 [0, 0, 20, 1439, 0, 0, 1]).MayOpen 3 (fun k => ([0, 0, 20, 1439, 0, 0, 1] : List Nat).getD k.val 0)
      (20 * 1440 + 1172) ∧
    (showsRead 15 []).busy .attention = false ∧ (showsRead 15 []).room 16 ∧ (∀ n, (showsRead 15 []).passedWrite n = none) ∧
    queueFind (showsRead 15 []).queue (showAddr 15 7) = none := by
  unfold Part.MayOpen
  decide +kernel

/-! ### Words placed, effects in parts, and the clauses beside them -/

/-- A part whose update queue holds `k` entries. -/
def loaded (p : Part) (k : Nat) : Part := { p with queue := fullQueue.take k }

theorem test_sweeping_writes : sweeping.mode = .sweeping ∧ (sweeping.lane 0).lapsed = false ∧
    (writes 0 0x3E 21 sweeping).offers 0 0x3E 21 .clockDay .clock ∧
    (writes 0 0x3F 21 sweeping).offers 0 0x3F 21 .clockMinute .clock ∧
    (∀ n : Lane, (writes n 0x1002 0x8000 sweeping).laneWrite n = some (0x1002, 0x8000) ∧
      (writes n 0x1002 0 sweeping).laneWrite n = some (0x1002, 0) ∧
      (writes n 0x1002 1 sweeping).laneWrite n = some (0x1002, 1) ∧
      (writes n 0x1002 2 sweeping).laneWrite n = some (0x1002, 2)) ∧ sweeping.calm ∧ sweeping.region 0x1002 = .seat := by
  decide +kernel

theorem test_placed_orders :
    (loaded (slotWrite 2 15 0x0100 (slot3 .assembling)) 6).room (1 + 9) ∧
    (loaded (slotWrite 2 14 7 { slot3 .assembling with cursor := 14 }) 14).room 2 ∧
    (loaded (slotWrite 2 14 7 { slot3 .assembling with cursor := 14 }) 14).noPass
      ((slotWrite 2 14 7 (slot3 .assembling)).orderAddr 3 16) ∧
    statusWord { slot3 .assembling with cursor := 14 } 0 ≠ statusWord (slot3 .assembling) 0 ∧
    (loaded (slotWrite 0 15 0x0500 (slot3 .printHalted)) 15).clearFor 1 ∧
    statusWord (slot3 .printHalted) 0 ≠ statusWord (slot3 .done) 0 ∧
    (loaded queued3 12).clearFor 4 ∧ 3 ∉ queued3.order.window ∧ queued3.tender.requests = [] ∧
    (ordering (slot3 .queued) [] [.reprintLog 2 3 .preferred 0x426F 0x402]).queue = [] := by decide +kernel

/-- The voucher entries of slot 3 in a state, and the requests for them. -/
def vouchersOf (state : VoucherState) (a : Act) : Part :=
  (ordering { slot3 .queued 2 with vouchers := [0, 255] } [] [a]).setVoucher 255 fun _ => ⟨state, 1, 7, 3, 0x1234, 9, none⟩

theorem test_placed_vouchers : (redeems .issued 0x1234 29972).clearFor 16 ∧
    (redeems .issued 0x1234 29972).voucherCount (countState 2) ≠ 0 ∧
    (ordering (slot3 .assembling 2) [] [.closeReserve 3 [3]]).clearFor (4 * 2 + 8) ∧
    (0x426F : Addr) = base.orderAddr 3 15 ∧ 3 ∉ base.order.payQueue ∧ base.directory.free[1]? = some 1 ∧
    (loaded (vouchersOf .reserved (.issue 3)) 8).clearFor (2 * 2 + 4) ∧
    (loaded (vouchersOf .reserved (.returnVouchers 3)) 4).clearFor (4 * 2 + 4) ∧
    (loaded (vouchersOf .issued (.retireVouchers 7)) 15).clearFor 1 ∧ (directoryWork (.asked false)).clearFor 16 := by
  decide +kernel

/-- As `vouchersOf`, with a free list of exactly the FREE entries. -/
def exactOf (state : VoucherState) (a : Act) : Part :=
  let p := (vouchersOf state a).setVoucher 0 fun _ => ⟨state, 1, 7, 3, 0x1234, 9, none⟩
  { p with directory := { p.directory with free := (List.finRange 256).filter fun i => i != 0 && i != 255 } }

theorem test_free_list : base.freeExact ∧ (∀ i ∈ base.directory.free, (base.voucher i).state = .free) ∧
    (slot3 .assembling 2).vouchers = [] ∧ (exactOf .reserved (.issue 3)).freeExact ∧
    (exactOf .issued (.retireVouchers 7)).freeExact ∧
    (∀ i ∈ ((exactOf .reserved (.returnVouchers 3)).slot 3).vouchers,
      ((exactOf .reserved (.returnVouchers 3)).voucher i).state ≠ .free) ∧
    ((exactOf .reserved (.returnVouchers 3)).slot 3).vouchers.Nodup := by decide +kernel

/-- A voucher cell rebuilt from its four words, the last from memory. -/
theorem test_rebuild_words : (loaded (directoryWork .running [.rebuild 254 [5, 2, 0x1903]]) 12).clearFor 4 ∧
    (directoryWork .running [.rebuild 254 [5, 2, 0x1903]]).firstAsker = some .sweepReader ∧
    bits (5 : Word) 0 3 ≠ 0 ∧ bits (5 : Word) 0 3 ≠ 4 ∧ bits (4 : Word) 0 3 = 4 := by decide +kernel

theorem test_frames_cut_short : ([] : List Byte).length < 3 ∧ ([3, 1] : List Byte).length < 3 ∧
    (List.replicate 13 (0 : Byte)).length < 14 ∧ (List.replicate 9 (0 : Byte)).length < 10 := by decide

/-- The decision of an outcome, the hand back or the verdict being next. -/
def deciding (state : SlotState) (acts : List Act) (kind : LinkKind := .abandon) : Part :=
  loaded ((headed state kind).setTask .order ⟨acts, true⟩) 11

theorem test_effects : (∀ x ∈ [(headed .tendering .abandon).slot 3],
      (deciding .tendering [.handBack 1, .approve 3 authSpaces x, .handoff 3 .preferred, .verdict .taken]).slot 3 = x ∧
      (deciding .tendering [.handBack 1, .approve 3 authSpaces x, .handoff 3 .preferred, .verdict .taken]).task .order
        = ⟨[.handBack 1, .approve 3 authSpaces x, .handoff 3 .preferred, .verdict .taken], true⟩ ∧
      (deciding .tendering [.handBack 1, .endSlot 3 .abandoned 0 x, .verdict .taken]).task .order
        = ⟨[.handBack 1, .endSlot 3 .abandoned 0 x, .verdict .taken], true⟩) ∧
    (deciding .tendering []).clearFor 5 ∧ (deciding .tendering []).freeFor .log ∧
    (deciding .tendering []).accepted = true ∧ ((deciding .tendering []).slot 3).state = .tendering := by decide +kernel

theorem test_verdicts : (deciding .approved [.handoff 3 .preferred, .verdict .taken]).calm ∧
    (deciding .approved [.handoff 3 .preferred, .verdict .taken]).tender.requests = ⟨3, 1, .abandon, true⟩ :: [] ∧
    (deciding .approved [.handoff 3 .preferred, .verdict .taken]).busy .print = false ∧
    (deciding .approved [.handoff 3 .preferred, .verdict .taken]).task .order
      = ⟨[.handoff 3 .preferred, .verdict .taken], true⟩ ∧
    (deciding .declined [.flag 2 .orderEnd, .verdict .taken]).busy .attention = false ∧
    (deciding .declined [.flag 2 .orderEnd, .verdict .taken]).task .order = ⟨[.flag 2 .orderEnd, .verdict .taken], true⟩ ∧
    (deciding .timedOut [.flag 0 .lateResult, .lateEnd 3 .approved, .verdict .tooLate]).task .order
      = ⟨[.flag 0 .lateResult, .lateEnd 3 .approved, .verdict .tooLate], true⟩ ∧
    (deciding .timedOut []).room 3 ∧ (deciding .timedOut []).clearFor 3 := by decide +kernel

theorem test_placed_printers : (loaded handingOff 14).clearFor 2 ∧ (loaded jobWaits 9).clearFor 7 ∧
    printerStateWords ((jobWaits.setPrintQueue 1 fun _ => []).sideAt 1) false 0
      ≠ printerStateWords (jobWaits.sideAt 1) false 1 ∧
    (loaded ((streams (some 0) 1).setTask (.side 1) ⟨[.askProgress 1 (some (0, 1)) (some 9)], false⟩) 12).clearFor 4 ∧
    (loaded (inExchange .data 38) 9).clearFor 7 ∧ (loaded (inExchange .cut 39) 9).clearFor 7 ∧
    (loaded (inExchange .status 0) 12).clearFor 4 ∧ (inExchange .data 39).busy .order = false ∧
    (inExchange .data 39).busy .attention = false := by decide +kernel

/-- The run with the last serial, or with none left. -/
def lastSerial (exhausted : Bool) : Part :=
  let p := loaded (streams (some 0) 0) 9
  { p with print := { p.print with serial := 0xFFFFFFFF, exhausted } }
/-- The run at body byte `offset` of `len`, in the word that it holds. -/
def inBody (offset len placed : Nat) (w : Word) : Part :=
  (streams (some len) placed).setSide 1 fun x => { x with offset, word := some (1 + offset / 2, w) }

theorem test_serials : ∀ e, (lastSerial e).freeFor (.side 1) ∧ ((lastSerial e).sideAt 1).bodyLen = some 0 ∧
    ((lastSerial e).sideAt 1).placed < ((lastSerial e).slot 3).seatCount + ((lastSerial e).slot 3).vouchers.length ∧
    (lastSerial e).print.serial = 0xFFFFFFFF ∧ (lastSerial e).print.exhausted = e ∧ (lastSerial e).clearFor 4 ∧
    (lastSerial e).room 7 ∧ (lastSerial e).busy .order = false ∧ (lastSerial e).busy .attention = false := by decide +kernel

theorem test_body : hiByte 0x1D20 = 0x1D ∧ loByte 0x201D = 0x1D ∧ hiByte 0x201D ≠ 0x1D ∧ loByte 0x1D20 ≠ 0x1D ∧
    (∀ (o k : Fin 2) (b : Bool), let p := inBody o (o + 1) k (if b then 0x1D20 else 0x201D)
      p.freeFor (.side 1) ∧ (p.sideAt 1).bodyLen = some (o.val + 1) ∧ (p.sideAt 1).offset < o.val + 1 ∧
      (p.sideAt 1).word = some (1 + (p.sideAt 1).offset / 2, if b then 0x1D20 else 0x201D) ∧
      p.print.exhausted = false ∧ p.print.serial ≠ 0xFFFFFFFF) ∧
    ((inBody 4 5 1 0).slot 3).seatCount + ((inBody 4 5 1 0).slot 3).vouchers.length = 1 := by decide +kernel

/-- The run of side 1 asks for its body length, word 0 of the spool area. -/
def asksLength (q : List (Addr × Word) := []) : Part :=
  let p := (streams none 0).setSide 1 fun x => { x with stage := .filling }
  { p.setTask (.side 1) ⟨[.fill 1], false⟩ with print := { p.print with reader := [1, 0] }, waiters := [.side 1], queue := q }

theorem test_body_length : (asksLength).waiters = [.side 1] ∧ (asksLength).accepted = true ∧
    (asksLength).print.reader = 1 :: [0] ∧ ((asksLength).sideAt 1).bodyLen = none ∧ ((asksLength).sideAt 1).word = none ∧
    ((asksLength).sideAt 1).job = some 3 ∧ ((asksLength).sideAt 1).offset = 0 ∧
    (asksLength).task (.side 1) = ⟨[.fill 1], false⟩ ∧ (asksLength).firstAsker = some .printReader ∧
    queueFind (asksLength).queue ((asksLength).spoolAddr 3 0) = none ∧ (asksLength).spoolAddr 3 0 = 0x4800 ∧
    Memory.read [(0x4800, 509)] 0x4800 = 509 ∧ (0 : Nat) < (509 : Word).toNat ∧
    queueFind (asksLength [(0x4800, 508)]).queue ((asksLength [(0x4800, 508)]).spoolAddr 3 0) = some 508 := by decide +kernel

/-- Both sides want the link, the other served last; or side 1 alone; or neither. -/
def bothWant (last : Printer) : Part :=
  let p := (ready .data).setSide 0 fun x => { x with state := .faulted, pollDue := true }
  { p with print := { p.print with lastServed := last } }

/-- Side 0's printer state word waits for space; side 1's first strip waits for its progress request. -/
def bothWait : Part :=
  ((bothWant 1).setTask (.side 0) ⟨[.sync (.printer 0 true)], false⟩).setTask (.side 1) ⟨[.askProgress 1 none (some 9)], false⟩

theorem test_arbiter_waits : bothWait.nextServed = some 0 ∧ ((bothWait.setTask (.side 1) ⟨[], false⟩).nextServed = some 0) ∧
    { bothWait with print := { bothWait.print with lastServed := 0 } }.nextServed = some 0 ∧
    Act.isProgress (.sync (.printer 0 true)) = false := by decide +kernel

/-- Side 1 has its next block ready on a full queue, and the progress of its first strip is still to be taken. -/
def progressOnFull : Part :=
  (loaded (ready .data) 16).setTask (.side 1) ⟨[.askProgress 1 none (some 9)], false⟩

/-- Source: R124. The side does not send its ready block before the slot status shows the progress. -/
theorem test_progress_waits_for_status :
    let t := after (.progressRequest 1) progressOnFull
    let u := settle { t with queue := [] }
    (t.task (.side 1)).acts = [.await .order] ∧ (t.slot 3).firstSerial = none ∧ t.nextServed = none ∧
    (u.slot 3).firstSerial = some 9 ∧ (u.task (.side 1)).acts = [] ∧ u.nextServed = some 1 := by decide +kernel

theorem test_arbiter : (∀ l, (bothWant l).print.exchange = none ∧ (bothWant l).print.lastServed = l ∧
      ((bothWant l).sideAt 0).pollDue = true ∧ ((bothWant l).task (.side 0)).acts = [] ∧
      ((bothWant l).sideAt 1).state = .streaming ∧ ((bothWant l).sideAt 1).stage = .ready ∧
      ((bothWant l).task (.side 1)).acts = []) ∧ ((ready .data).sideAt 0).pollDue = false ∧
    ((ready .data).sideAt 0).state ≠ .streaming ∧ (inExchange .data 0).print.exchange ≠ none ∧
    base.print.exchange = none ∧ (∀ d, (base.sideAt d).pollDue = false ∧ (base.sideAt d).state ≠ .streaming) := by
  decide +kernel

/-- Does lane `n` present `v` to word 01Fh of `p`, for the setup controller to decide? -/
abbrev presents (p : Part) (n : Lane) (v : Word) : Prop := (writes n 0x1F v p).offers n 0x1F v .headerClose .setup

theorem test_header_close_gates : (∀ n, presents base n wordAccept) ∧ (∀ n, presents base n wordWithdraw) ∧
    (∀ n, presents sweeping n 7) ∧ presents lapsed0 0 wordAccept ∧ presents lapsed0 0 wordWithdraw ∧ presents lapsed0 0 7 ∧
    (7 : Word) ≠ wordAccept ∧ (7 : Word) ≠ wordWithdraw ∧ (∀ n, presents fresh n wordWithdraw) ∧ (∀ n, presents fresh n 7) ∧
    (∀ n, (writes n 0x1F 7 fresh).noPass 0x1F) ∧ (loaded (writes 0 0x1F 7 fresh) 15).room 1 := by decide +kernel

end Sys2Proof.Tests
end

section
/-! SUPPORT. The CRC-8 of link frames and blocks (R98): one step of the register, one byte, a frame with its check
byte, and what the check of an arrived frame decides. -/

namespace Sys2Proof.Proofs

open Sys2Proof.Machine

/-! ### The register -/

theorem crcBit_eq_ite {w : Nat} (poly r : BitVec w) (b : Bool) :
    crcBit w poly r b = if r.getLsbD (w - 1) = b then r <<< 1 else (r <<< 1) ^^^ poly := by
  unfold crcBit
  rw [BitVec.msb_eq_getLsbD_last]
  by_cases h : r.getLsbD (w - 1) = b <;> simp [h]

theorem byteBits_eq_map (b : Byte) : byteBits b = [7, 6, 5, 4, 3, 2, 1, 0].map b.getLsbD := rfl

/-- A byte shifts the register eight times, its most significant bit first; for a register of any width. -/
theorem foldl_crcBit_byteBits {w : Nat} (poly r : BitVec w) (b : Byte) :
    (byteBits b).foldl (crcBit w poly) r =
      ([7, 6, 5, 4, 3, 2, 1, 0] : List Nat).foldl (fun (r : BitVec w) i =>
        if r.getLsbD (w - 1) = b.getLsbD i then r <<< 1 else (r <<< 1) ^^^ poly) r := by
  rw [byteBits_eq_map, List.foldl_map]
  simp only [crcBit_eq_ite]

@[simp] theorem crc8_nil : crc8 [] = 0x00 := rfl

theorem crc8_append_singleton (bs : List Byte) (b : Byte) :
    crc8 (bs ++ [b]) = (byteBits b).foldl (crcBit 8 0x07) (crc8 bs) := by
  simp [crc8, List.foldl_append]

/-! ### A frame with its check byte -/

@[simp] theorem length_withCheck (bs : List Byte) : (withCheck bs).length = bs.length + 1 := by
  simp [withCheck]

theorem take_withCheck {bs : List Byte} {n : Nat} (h : bs.length = n) : (withCheck bs).take n = bs := by
  subst h
  exact List.take_left

/-- The check byte of a frame is the CRC-8 of the bytes before it. -/
theorem withCheck_eq_take {bs : List Byte} {n : Nat} (h : bs.length = n) :
    withCheck bs = (withCheck bs).take n ++ [crc8 ((withCheck bs).take n)] := by
  rw [take_withCheck h, withCheck]

/-- A request frame is thirteen bytes and their check byte (R97). -/
theorem exists_fetchFrame_eq_withCheck (sl : SlotNo) (x : Shadow) (seq : Byte) :
    ∃ bs, bs.length = 13 ∧ fetchFrame sl x seq = withCheck bs :=
  ⟨_, rfl, rfl⟩

/-! ### A frame that arrives -/

@[simp] theorem requests_mark (l : TenderLink) (v : Verdict) : (l.mark v).requests = l.requests := rfl

@[simp] theorem requests_deliver (l : TenderLink) (live : Bool) (v : Verdict) :
    (l.deliver live v).requests = l.requests := by
  cases live <;> rfl

/-- The check of an arrived frame compares its last byte with the CRC-8 of those before it. -/
theorem check_good_iff (bs : List Byte) (check : Byte) :
    (bs ++ [check]).getLast? = some (crc8 (bs ++ [check]).dropLast) ↔ check = crc8 bs := by
  rw [List.getLast?_concat, List.dropLast_concat, Option.some_inj]

/-- In RUNNING a frame with a bad check byte makes no link request (R101). -/
theorem requests_frameArrives_bad {p : Part} (t : Transaction) {bs : List Byte} {check : Byte} (kind : LinkKind)
    (hmode : p.mode = .running) (hcheck : check ≠ crc8 bs) :
    (frameArrives p t (bs ++ [check]) kind).requests = p.tender.requests := by
  rw [frameArrives, if_neg (not_not_intro hmode), if_pos (mt (check_good_iff bs check).mp hcheck),
    requests_deliver, requests_mark]

/-- In RUNNING a frame with a good check byte becomes the last link request, while the list has room (R101). -/
theorem requests_frameArrives_good {p : Part} (t : Transaction) {bs : List Byte} {check : Byte} (kind : LinkKind)
    (hmode : p.mode = .running) (hroom : p.tender.requests.length < 4) (hcheck : check = crc8 bs) :
    (frameArrives p t (bs ++ [check]) kind).requests =
      p.tender.requests ++ [⟨((bs ++ [check]).getD 0 0).toNat, (bs ++ [check]).getD 1 0, kind, true⟩] := by
  rw [frameArrives, if_neg (not_not_intro hmode), if_neg (not_not_intro ((check_good_iff bs check).mpr hcheck)),
    if_neg (Nat.not_le.mpr hroom)]

theorem frameArrives_adds_request_iff {p : Part} (t : Transaction) (bs : List Byte) (check : Byte) (kind : LinkKind)
    (hmode : p.mode = .running) (hroom : p.tender.requests.length < 4) :
    (frameArrives p t (bs ++ [check]) kind).requests.length = p.tender.requests.length + 1 ↔ check = crc8 bs := by
  by_cases hcheck : check = crc8 bs
  · rw [requests_frameArrives_good t kind hmode hroom hcheck]
    simp [hcheck]
  · rw [requests_frameArrives_bad t kind hmode hcheck]
    simp [hcheck]

/-! ### The statement -/

/-- Settles O55: the register bit by bit, the check byte of request frames and blocks, and what makes an arrived frame
a link request. -/
theorem crcEight : Obligations.CrcEight := by
  refine ⟨crc8_nil, fun bs b => ?register, fun sl x seq => ?frame, fun p tr bs check kind hmode hroom => ?arrival,
    fun kind payload => ?block⟩
  case register => rw [crc8_append_singleton, foldl_crcBit_byteBits]
  case frame =>
    obtain ⟨bs, hlen, hframe⟩ := exists_fetchFrame_eq_withCheck sl x seq
    rw [hframe]
    exact ⟨by rw [length_withCheck, hlen], withCheck_eq_take hlen⟩
  case arrival => exact frameArrives_adds_request_iff tr bs check kind hmode hroom
  case block => exact ⟨[kind.code, BitVec.ofNat 8 payload.length] ++ payload, by simp, rfl⟩

end Sys2Proof.Proofs
end

section
/-! SUPPORT. The attention unit's decision on a lane's flag or mask word (R154, R156): how its placements, its ATN line
and the end of the write are carried out, and which words it places. -/

namespace Sys2Proof.Proofs

open Sys2Proof.Machine Sys2Proof.Laws

/-! ### The words of a lane block -/

theorem toNat_laneAddr (m : Lane) {k : Nat} (hk : k < 16) : (laneAddr m k).toNat = 0x100 + 16 * m.val + k := by
  have hm := m.isLt
  simp only [laneAddr, addrOf, BitVec.toNat_ofNat]
  omega

/-- The classifier finds the lane and the word of a lane block address again (R53). -/
theorem region_laneAddr (p : Part) (m : Lane) {k : Nat} (hk : k < 16) :
    p.region (laneAddr m k) = .laneBlock m k := by
  have hm := m.isLt
  have hlane : (0x100 + 16 * m.val + k - 0x100) / 16 = m.val := by omega
  have hword : (0x100 + 16 * m.val + k - 0x100) % 16 = k := by omega
  unfold Part.region
  rw [toNat_laneAddr m hk]
  dsimp only
  rw [if_neg (by omega), if_neg (by omega), if_neg (by omega), if_neg (by omega), if_neg (by omega), if_pos (by omega),
    hlane, hword, Fin.ofNat_val_eq_self]

theorem treatment_laneAddr {p : Part} (h : p.accepted = true) (n m : Lane) {k : Nat} (hk : k < 16) :
    p.treatment n (laneAddr m k) = treatLaneBlock n m k := by
  rw [Part.treatment, if_pos h, treatAccepted, region_laneAddr p m hk]

/-- A flag word clears on one for its own lane; to any other lane it is READ_ONLY (R154). -/
theorem treatment_flagWord {p : Part} (h : p.accepted = true) (n m : Lane) :
    p.treatment n (laneAddr m 0) = if n = m then .flagWord else .readOnly := by
  rw [treatment_laneAddr h n m (by omega), treatLaneBlock]
  by_cases hm : n = m
  · simp [hm]
  · simp [hm, Ne.symm hm]

/-- A mask word has the MASK treatment for its own lane and for lane 0 (R156). -/
theorem treatment_maskWord {p : Part} (h : p.accepted = true) (n m : Lane) :
    p.treatment n (laneAddr m 1) = if n = m ∨ n = 0 then .maskWord m else .readOnly := by
  rw [treatment_laneAddr h n m (by omega), treatLaneBlock]
  by_cases hm : n = m
  · simp [hm]
  · simp [hm, Ne.symm hm]

/-! ### One placement -/

theorem treatment_of_placed {p q : Part} (h : Part.Placed p q) (n : Lane) (a : Addr) :
    q.treatment n a = p.treatment n a := by
  rw [h.1]
  rfl

/-- The words of a block's own state do not show what placements and completed accesses touch. -/
theorem partWord_of_placed {p q : Part} (h : Part.Placed p q) (w : PartWord) : partWord q w = partWord p w := by
  cases w with
  | laneState n =>
    show (laneAddr n 8, laneStateWord (q.lane n) (q.holdCount n) q.hold.quota[n]) = _
    rw [h.2 n, h.1]
    rfl
  | _ =>
    rw [h.1]
    rfl

/-- A passed write of `q` is one of `p`, when `q` begins no access. -/
theorem noPass_of_placed {p q : Part} (h : Part.Placed p q)
    (hacc : ∀ m, (q.lane m).access = none ∨ (q.lane m).access = (p.lane m).access) {a : Addr} (hp : p.noPass a) :
    q.noPass a := by
  intro m
  obtain hnone | hsame := hacc m
  · simp [passedWrite_free hnone]
  · have hreset : q.resetLow = p.resetLow := by rw [h.1]
    have hmode : q.mode = p.mode := by
      rw [h.1]
      rfl
    rw [passedWrite_of_lane m hreset hmode hsame (treatment_of_placed h m)]
    exact hp m

theorem access_serveLane (a : Addr) (p : Part) (n m : Lane) :
    ((serveLane a p n).lane m).access = none ∨ ((serveLane a p n).lane m).access = (p.lane m).access := by
  have hset (q : Part) (f : LaneIf → LaneIf) (hf : ∀ l, (f l).access = none) (hq : q.lanes = p.lanes) :
      ((q.setLane n f).lane m).access = none ∨ ((q.setLane n f).lane m).access = (p.lane m).access := by
    rw [lane_setLane]
    split
    · exact .inl (hf _)
    · exact .inr (by rw [Part.lane, hq, Part.lane])
  unfold serveLane
  split
  · exact hset p _ (fun _ => rfl) rfl
  · split
    · split
      · unfold Part.passDone
        dsimp only
        split <;> exact hset _ _ (fun _ => rfl) rfl
      · exact .inr rfl
    · exact .inr rfl

theorem queueFind_serveLane_other {a x : Addr} (hx : x ≠ a) (p : Part) (n : Lane) :
    queueFind (serveLane a p n).queue x = queueFind p.queue x := by
  unfold serveLane
  split
  · rfl
  · split
    · split
      · rw [passDone_queue, queueFind_replace, if_neg hx]
      · rfl
    · rfl

/-- A placement of a word serves lanes that wait for it: their accesses end, and no other word's entry changes. -/
theorem placeWord_serves {p q : Part} {a : Addr} {v : Word} (h : placeWord p a v = some q) :
    (∀ m, (q.lane m).access = none ∨ (q.lane m).access = (p.lane m).access) ∧
      ∀ x, x ≠ a → queueFind q.queue x = queueFind p.queue x := by
  have hserve (l : List Lane) (r : Part) :
      (∀ m, ((l.foldl (serveLane a) r).lane m).access = none ∨
        ((l.foldl (serveLane a) r).lane m).access = (r.lane m).access) ∧
      ∀ x, x ≠ a → queueFind (l.foldl (serveLane a) r).queue x = queueFind r.queue x := by
    induction l generalizing r with
    | nil => exact ⟨fun _ => .inr rfl, fun _ _ => rfl⟩
    | cons n l ih =>
      obtain ⟨hacc, hfind⟩ := ih (serveLane a r n)
      refine ⟨fun m => ?_, fun x hx => (hfind x hx).trans (queueFind_serveLane_other hx r n)⟩
      obtain hnone | hsame := hacc m
      · exact .inl hnone
      · exact (access_serveLane a r n m).imp hsame.trans hsame.trans
  unfold placeWord at h
  split at h
  · cases h
  · next r hr =>
    have hplace (x : Addr) (hx : x ≠ a) : queueFind r x = queueFind p.queue x := by
      rw [(queuePlace_spec hr).2 x, if_neg hx]
    cases h
    split
    · exact ⟨fun _ => .inr rfl, hplace⟩
    · obtain ⟨hacc, hfind⟩ := hserve (List.finRange 6) { p with queue := r }
      exact ⟨hacc, fun x hx => (hfind x hx).trans (hplace x hx)⟩

/-! ### The present values of several words, placed one after the other -/

/-- From `p` to `q` the words `ws` have been placed with the values that they show: each stands in the queue unless a
passed write has coalesced into it, and no other word's entry has changed. -/
structure Synced (ws : List PartWord) (p q : Part) : Prop where
  placed : Part.Placed p q
  access : ∀ m, (q.lane m).access = none ∨ (q.lane m).access = (p.lane m).access
  waiters : q.waiters = p.waiters
  found : ∀ w ∈ ws, p.noPass (partWord p w).1 → queueFind q.queue (partWord p w).1 = some (partWord p w).2
  kept : ∀ x, (∀ w ∈ ws, x ≠ (partWord p w).1) → queueFind q.queue x = queueFind p.queue x

theorem synced_nil (p : Part) : Synced [] p p where
  placed := placed_refl p
  access _ := .inr rfl
  waiters := rfl
  found _ hw := absurd hw List.not_mem_nil
  kept _ _ := rfl

theorem synced_singleton {p q : Part} {w : PartWord} (ha : p.accepted = true)
    (h : placeWord p (partWord p w).1 (partWord p w).2 = some q) : Synced [w] p q where
  placed := (placedIn_placeWord h ha).1
  access := (placeWord_serves h).1
  waiters := (placeWord_work h).2
  found x hx hp := by
    obtain rfl := List.mem_singleton.1 hx
    have hpass (n : Lane) (v : Word) : p.passedWrite n ≠ some ((partWord p x).1, v) := fun e => hp n (by rw [e]; rfl)
    rw [placeWord_find h hpass, if_pos rfl]
  kept x hx := (placeWord_serves h).2 x (hx w (List.mem_singleton.2 rfl))

/-- A task is not seen by placements. -/
theorem Synced.of_setTask {ws : List PartWord} {p q : Part} {b : Block} {t : Task} (h : Synced ws (p.setTask b t) q) :
    Synced ws p q where
  placed := placed_trans (placed_work p _ p.waiters) h.placed
  access := h.access
  waiters := h.waiters
  found w hw hp := by
    have hword : partWord (p.setTask b t) w = partWord p w := partWord_withWork p _ w
    have := h.found w hw
    rw [hword] at this
    exact this hp
  kept x hx := h.kept x fun w hw => by
    rw [show partWord (p.setTask b t) w = partWord p w from partWord_withWork p _ w]
    exact hx w hw

theorem Synced.cons {w : PartWord} {ws : List PartWord} {p q r : Part} (h : Synced [w] p q) (k : Synced ws q r)
    (hw : (partWord p w).1 ∉ ws.map fun x => (partWord p x).1) : Synced (w :: ws) p r where
  placed := placed_trans h.placed k.placed
  access m := by
    obtain hnone | hsame := k.access m
    · exact .inl hnone
    · exact (h.access m).imp hsame.trans hsame.trans
  waiters := k.waiters.trans h.waiters
  found x hx hp := by
    have hword := partWord_of_placed h.placed
    obtain rfl | hx := List.mem_cons.1 hx
    · rw [k.kept _ fun y hy e => hw (List.mem_map.2 ⟨y, hy, by rw [e, hword]⟩)]
      exact h.found x (List.mem_singleton.2 rfl) hp
    · have := k.found x hx
      rw [hword] at this
      exact this (noPass_of_placed h.placed h.access hp)
  kept x hx := by
    rw [k.kept x fun y hy => by
      rw [partWord_of_placed h.placed]
      exact hx y (List.mem_cons_of_mem w hy)]
    exact h.kept x fun y hy => hx y (by simp [List.mem_singleton.1 hy])

/-! ### A decision act by act -/

theorem setTask_task (p : Part) (b : Block) : p.setTask b (p.task b) = p := by
  simp [Part.setTask, Part.task, upd]

/-- A block carries out an act that only changes the part, and goes on. -/
theorem drive_took {p q : Part} {b : Block} {a : Act} {rest : List Act} (k : Nat)
    (ht : p.task b = ⟨a :: rest, false⟩) (ha : a.ownRow = false)
    (hk : take (p.setTask b ⟨rest, false⟩) a = some { part := q }) (hq : q.task b = ⟨rest, false⟩) :
    drive (k + 1) b p = drive k b q := by
  have hcarry : Took.carry { part := q } b false (drive k) = q := by
    simp only [Took.carry, List.nil_append, List.foldl_nil]
    rw [hq, ← hq, setTask_task]
  rw [drive, ht]
  dsimp only
  rw [ha, hk]
  simp only [Bool.false_and, Bool.or_self, Bool.false_eq_true, if_false]
  rw [hcarry]

theorem drive_free {p : Part} {b : Block} (k : Nat) (h : (p.task b).acts = []) : drive k b p = p := by
  cases k with
  | zero => simp [drive, Part.busy, h]
  | succ k =>
    unfold drive
    split
    · rfl
    · next e =>
      rw [e] at h
      cases h

/-- With room for each, the words at the front of a decision are placed, and the block goes on with the rest. -/
theorem drive_syncs (b : Block) (rest : List Act) (k : Nat) (ws : List PartWord) {p : Part}
    (ht : p.task b = ⟨ws.map .sync ++ rest, false⟩) (ha : p.accepted = true) (hroom : p.room ws.length)
    (hd : (ws.map fun w => (partWord p w).1).Nodup) :
    ∃ q, drive (ws.length + k) b p = drive k b q ∧ q.task b = ⟨rest, false⟩ ∧ Synced ws p q := by
  induction ws generalizing p with
  | nil => exact ⟨p, by rw [List.length_nil, Nat.zero_add], ht, synced_nil p⟩
  | cons w ws ih =>
    rw [List.length_cons] at hroom
    obtain ⟨hw, hd⟩ := List.nodup_cons.1 hd
    let p' := p.setTask b ⟨ws.map .sync ++ rest, false⟩
    obtain ⟨q, hq, hlen⟩ := placeWord_room p' (partWord p' w).1 (partWord p' w).2
      (show p.queue.length < 16 by omega)
    have htake : take p' (.sync w) = some { part := q } := by
      show (placeWord p' (partWord p' w).1 (partWord p' w).2).bind did = _
      rw [hq]
      rfl
    have hqtask : q.task b = ⟨ws.map .sync ++ rest, false⟩ := by
      rw [task_of_work (placeWord_work hq).1 b]
      exact task_setTask_same ..
    have hsync : Synced [w] p q := (synced_singleton (p := p') ha hq).of_setTask
    have hword := partWord_of_placed hsync.placed
    obtain ⟨r, hr, hrtask, hrsync⟩ := ih hqtask (accepted_placed hsync.placed ha)
      (show q.queue.length + ws.length ≤ 16 by
        have : p'.queue.length = p.queue.length := rfl
        omega)
      (by simpa only [hword] using hd)
    refine ⟨r, ?_, hrtask, hsync.cons hrsync hw⟩
    calc drive ((w :: ws).length + k) b p
        = drive (ws.length + k + 1) b p := by
          congr 1
          rw [List.length_cons]
          omega
      _ = drive (ws.length + k) b q := drive_took _ ht rfl htake hqtask
      _ = drive k b r := hr

/-- A decision's last two acts: the ATN line of lane `m` is brought to its level, and lane `n`'s write completes. -/
theorem drive_line_finish {p : Part} {b : Block} {m n : Lane} (k : Nat)
    (ht : p.task b = ⟨[.line m, .finish n], false⟩) :
    drive (k + 2) b p = ((bringLine p m).finish n).setTask b ⟨[], false⟩ := by
  let q := bringLine (p.setTask b ⟨[.finish n], false⟩) m
  let r := (q.setTask b ⟨[], false⟩).finish n
  have hq : q.task b = ⟨[.finish n], false⟩ := task_setTask_same ..
  have hr : r.task b = ⟨[], false⟩ := task_setTask_same ..
  calc drive (k + 2) b p
      = drive (k + 1) b q := drive_took _ ht rfl rfl hq
    _ = drive k b r := drive_took _ hq rfl rfl hr
    _ = r := drive_free k (by rw [hr])
    _ = _ := by
      show (((bringLine p m).setTask b _).setTask b _).finish n = _
      rw [setTask_setTask]
      rfl

/-! ### What the decision leaves, whatever the room -/

/-- Placements, completions of accesses, and the ATN line of lane `m`. -/
def Lining (m : Lane) (a : Act) : Prop := Placing a ∨ a = .line m

/-- What such acts keep in SWEEPING and RUNNING: everything but the line of lane `m` is as `Part.Placed` says. -/
def LinedIn (m : Lane) (p q : Part) : Prop :=
  p.accepted = true → Part.Placed { p with attention := q.attention } q ∧
    (∀ k, q.att k = if k = m then { p.att m with line := (q.att m).line } else p.att k) ∧ q.accepted = true

theorem linedIn_of_placedIn (m : Lane) {p q : Part} (h : PlacedIn p q) : LinedIn m p q := by
  intro ha
  obtain ⟨hplaced, hq⟩ := h ha
  have hatt : q.attention = p.attention := by rw [hplaced.1]
  have hlane (k : Lane) : q.att k = p.att k := by rw [Part.att, hatt, Part.att]
  refine ⟨by rwa [hatt], fun k => ?_, hq⟩
  split
  · next e => rw [e, hlane m]
  · exact hlane k

theorem linedIn_bringLine (p : Part) (m : Lane) : LinedIn m p (bringLine p m) := by
  refine fun ha => ⟨placed_refl _, fun k => ?_, ha⟩
  simp only [bringLine, att_setAtt]
  split
  · next e => simp [e]
  · rfl

theorem linedIn_trans {m : Lane} {p q r : Part} (h : LinedIn m p q) (k : LinedIn m q r) : LinedIn m p r := by
  intro ha
  obtain ⟨hpq, hatt, hq⟩ := h ha
  obtain ⟨hqr, hatt', hr⟩ := k hq
  have hpq' : Part.Placed { p with attention := r.attention } { q with attention := r.attention } :=
    ⟨by rw [hpq.1], hpq.2⟩
  refine ⟨placed_trans hpq' hqr, fun i => ?_, hr⟩
  rw [hatt' i]
  split
  · rw [hatt m, if_pos rfl]
  · next hi => rw [hatt i, if_neg hi]

/-- Everything that such an act can do. -/
theorem take_lining {m : Lane} {p : Part} {a : Act} {t : Took} (h : Lining m a) (ht : take p a = some t) :
    LinedIn m p t.part ∧ t.part.work = p.work ∧ t.part.waiters = p.waiters ∧ t.acts = [] ∧ t.kicks = [] ∧
      t.started = none := by
  obtain h | rfl := h
  · obtain ⟨hplaced, hrest⟩ := take_placing h ht
    exact ⟨linedIn_of_placedIn m hplaced, hrest⟩
  · cases ht
    exact ⟨linedIn_bringLine p m, rfl, rfl, rfl, rfl, rfl⟩

theorem carries_lining (m : Lane) : Carries (Lining m) (LinedIn m) where
  refl p := linedIn_of_placedIn m (placedIn_refl p)
  trans _ _ _ := linedIn_trans
  work p w ws := linedIn_of_placedIn m fun ha => ⟨placed_work p w ws, ha⟩
  act _ _ _ h ht := (take_lining h ht).1
  tasks _ _ _ h ht b hb := by
    obtain ⟨-, hwork, -⟩ := take_lining h ht
    exact taskIn_of_work hwork b hb
  waiters _ _ _ h ht b hb := by
    obtain ⟨-, -, hwaiters, -⟩ := take_lining h ht
    exact .inl (hwaiters ▸ hb)
  acts _ _ _ h ht x hx := by
    obtain ⟨-, -, -, hacts, -⟩ := take_lining h ht
    simp [hacts] at hx
  started _ _ _ b l h ht hs := by
    obtain ⟨-, -, -, -, -, hstarted⟩ := take_lining h ht
    simp [hstarted] at hs
  kicks _ _ _ h ht k hk := by
    obtain ⟨-, -, -, -, hkicks, -⟩ := take_lining h ht
    simp [hkicks] at hk

/-! ### A lane's write that changes one lane's attention state -/

/-- The words of lane `m` whose values the change `f` of its flags, mask and record changes. -/
def changedBy (p : Part) (m : Lane) (f : Attention → Attention) : List PartWord :=
  (attentionWords p m).filter fun w => (partWord p w).2 != (partWord (p.setAtt m f) w).2

/-- The part after the attention unit has taken lane `n`'s write, which changes lane `m`'s attention state by `f`. -/
def attentionWrite (p : Part) (n m : Lane) (f : Attention → Attention) : Part :=
  settle (decideAt .attention .whole
    ((attentionChange p m f).1.markDecided n, (attentionChange p m f).2 ++ [.finish n]))

theorem attentionChange_acts {p : Part} (ha : p.accepted = true) (m : Lane) (f : Attention → Attention) :
    (attentionChange p m f).2 = (changedBy p m f).map .sync ++ [.line m] := by
  simp only [attentionChange, attentionLines, ha, if_true]
  rfl

/-- The words of a lane block have different addresses. -/
theorem nodup_changedBy (p q : Part) (m : Lane) (f : Attention → Attention) :
    ((changedBy p m f).map fun w => (partWord q w).1).Nodup := by
  have hall : ((attentionWords p m).map fun w => (partWord q w).1).Sublist
      ([3, 4, 5, 6, 0, 1, 2].map (laneAddr m)) := by
    unfold attentionWords
    split
    · exact List.Sublist.refl _
    · exact List.sublist_append_left [laneAddr m 3, _, _, _, _, _] [laneAddr m 2]
  have hdistinct : ([3, 4, 5, 6, 0, 1, 2].map (laneAddr m)).Nodup := by
    clear hall
    revert m
    decide
  exact hdistinct.sublist ((List.filter_sublist.map _).trans hall)

/-- Whatever the room: but for the change of lane `m` and its ATN line, a taken write leaves placements and ended
accesses. -/
theorem attentionWrite_frame {p : Part} (hp : p.calm) (ha : p.accepted = true) (n m : Lane)
    (f : Attention → Attention) :
    Part.Placed { p.afterWrite n with attention := (attentionWrite p n m f).attention } (attentionWrite p n m f) ∧
      ∀ k, (attentionWrite p n m f).att k =
        if k = m then { f (p.att m) with line := ((attentionWrite p n m f).att m).line } else p.att k := by
  let s := (p.setAtt m f).markDecided n
  have hacts : ∀ a ∈ (attentionChange p m f).2 ++ [.finish n], Lining m a := by
    rw [attentionChange_acts ha, List.append_assoc]
    intro a hmem
    obtain h | h := List.mem_append.1 hmem
    · exact .inl (changedWords_placing p (p.setAtt m f) (attentionWords p m) a h)
    · obtain rfl | rfl : a = .line m ∨ a = .finish n := by simpa using h
      · exact .inr rfl
      · exact .inl trivial
  have hs : s.accepted = true := by
    rw [markDecided_accepted]
    exact ha
  have hwaiters : s.waiters = [] := by
    rw [markDecided_waiters]
    exact hp
  obtain ⟨hplaced, hatt, -⟩ :=
    (goes_settled (carries_lining m) hwaiters (goes_decideNow (carries_lining m) .attention s _ hacts)).rel hs
  have hsatt (k : Lane) : s.att k = if k = m then f (p.att m) else p.att k := by
    rw [Part.att, markDecided_attention, ← Part.att, att_setAtt]
    split
    · next e => rw [e]
    · rfl
  refine ⟨placed_trans ?_ hplaced, fun k => ?_⟩
  · have h := placed_markDecided { p with attention := (attentionWrite p n m f).attention } n
    have hafter : Part.afterWrite { p with attention := (attentionWrite p n m f).attention } n
        = { p.afterWrite n with attention := (attentionWrite p n m f).attention } := by
      unfold Part.afterWrite
      split <;> rfl
    have hmark : Part.markDecided { p with attention := (attentionWrite p n m f).attention } n
        = { s with attention := (attentionWrite p n m f).attention } := by
      unfold s Part.markDecided
      dsimp only
      split <;> rfl
    rwa [hafter, hmark] at h
  · have h := hatt k
    rw [hsatt m, if_pos rfl, hsatt k] at h
    refine h.trans ?_
    split <;> rfl

/-- Taking a lane's write lets no passed write begin. -/
theorem noPass_markDecided {p : Part} {n : Lane} {a : Addr} {v : Word} (h : p.laneWrite n = some (a, v))
    (m : Lane) (f : Attention → Attention) {x : Addr} (hp : p.noPass x) :
    ((p.setAtt m f).markDecided n).noPass x := by
  intro k
  have hlane := lane_markDecided (p.setAtt m f) n k
  by_cases hk : k = n
  · obtain ⟨hacc, -, -⟩ := laneWrite_access h
    have hdecided : (((p.setAtt m f).markDecided n).lane k).access = some ⟨a, some v, true, false⟩ := by
      rw [hlane, if_pos hk]
      show ((p.lane n).access.map _) = _
      rw [hacc]
      rfl
    simp [Part.passedWrite, Part.laneWrite, Part.passingWrite, hdecided]
  · have hsame : ((p.setAtt m f).markDecided n).passedWrite k = p.passedWrite k := by
      refine passedWrite_of_lane k ?_ ?_ ?_ fun y => ?_
      · rw [markDecided_resetLow]
        rfl
      · rw [Part.mode, markDecided_setup]
        rfl
      · rw [hlane, if_neg hk]
        rfl
      · unfold Part.markDecided
        dsimp only
        split <;> rfl
    rw [hsame]
    exact hp k

/-- The part as the attention unit takes lane `n`'s write, with the acts of its decision still to be carried out. -/
def attentionStart (p : Part) (n m : Lane) (f : Attention → Attention) : Part :=
  ((p.setAtt m f).markDecided n).startAt .attention .whole
    ((changedBy p m f).map .sync ++ [.line m, .finish n])

/-- Once the decision has come to its last two acts, they end it. -/
theorem attentionWrite_of_drive {p q : Part} (ha : p.accepted = true) {n m : Lane} {f : Attention → Attention}
    {k : Nat} (hdrive : drive fuel .attention (attentionStart p n m f) = drive (k + 2) .attention q)
    (htask : q.task .attention = ⟨[.line m, .finish n], false⟩) (hwaiters : q.waiters = []) :
    attentionWrite p n m f = ((bringLine q m).finish n).setTask .attention ⟨[], false⟩ := by
  have hacts : (attentionChange p m f).2 ++ [.finish n] = (changedBy p m f).map .sync ++ [.line m, .finish n] := by
    rw [attentionChange_acts ha, List.append_assoc]
    rfl
  rw [attentionWrite, hacts]
  show settle (drive fuel .attention (attentionStart p n m f)) = _
  rw [hdrive, drive_line_finish k htask]
  exact settle_calm _ hwaiters

theorem attentionStart_waiters {p : Part} (hp : p.calm) (n m : Lane) (f : Attention → Attention) :
    (attentionStart p n m f).waiters = [] := (markDecided_waiters ..).trans hp

theorem attentionStart_queue (p : Part) (n m : Lane) (f : Attention → Attention) :
    (attentionStart p n m f).queue = p.queue := markDecided_queue ..

/-- A write that changes no word places none, whatever the room. -/
theorem attentionWrite_queue {p : Part} (hp : p.calm) (ha : p.accepted = true) (n m : Lane)
    (f : Attention → Attention) (hnone : changedBy p m f = []) : (attentionWrite p n m f).queue = p.queue := by
  have htask : (attentionStart p n m f).task .attention = ⟨[.line m, .finish n], false⟩ := by
    rw [attentionStart, hnone]
    exact task_setTask_same ..
  rw [attentionWrite_of_drive (k := 4094) ha rfl htask (attentionStart_waiters hp n m f)]
  exact attentionStart_queue p n m f

/-- With room for the words that change they are placed, the ATN line follows and the write completes. -/
theorem attentionWrite_room {p : Part} (hp : p.calm) (ha : p.accepted = true) (n m : Lane) (f : Attention → Attention)
    (hroom : p.room (changedBy p m f).length) :
    ∃ q, Synced (changedBy p m f) ((p.setAtt m f).markDecided n) q ∧
      attentionWrite p n m f = ((bringLine q m).finish n).setTask .attention ⟨[], false⟩ := by
  have hlen : (changedBy p m f).length ≤ 7 := by
    refine (List.length_filter_le ..).trans ?_
    simp [attentionWords, ha]
  obtain ⟨k, hk⟩ : ∃ k, fuel = (changedBy p m f).length + (k + 2) :=
    ⟨4094 - (changedBy p m f).length, by unfold fuel; omega⟩
  have haccepted : (attentionStart p n m f).accepted = true := (markDecided_accepted (p.setAtt m f) n).trans ha
  have hstart : (attentionStart p n m f).room (changedBy p m f).length := by
    rw [Part.room, attentionStart_queue]
    exact hroom
  obtain ⟨q, hdrive, htask, hsync⟩ := drive_syncs .attention [.line m, .finish n] (k + 2) (changedBy p m f)
    (p := attentionStart p n m f) (task_setTask_same ..) haccepted hstart (nodup_changedBy p _ m f)
  have hwaiters : q.waiters = [] := hsync.waiters.trans (attentionStart_waiters hp n m f)
  exact ⟨q, hsync.of_setTask, attentionWrite_of_drive ha (hk ▸ hdrive) htask hwaiters⟩

/-- Where a block writes a word of its own does not depend on the block's state (10.2). -/
theorem partWord_addr (p q : Part) (w : PartWord) : (partWord p w).1 = (partWord q w).1 := by
  cases w with
  | printer d high => cases high <;> rfl
  | _ => rfl

/-- The words of a lane block show that lane's flags, mask and record, not the level of its line. -/
theorem partWord_of_att {p q r : Part} {m : Lane} {line : Bool} {w : PartWord} (hw : w ∈ attentionWords r m)
    (h : q.att m = { p.att m with line }) : partWord q w = partWord p w := by
  have hsub : w ∈ [.refusalHigh m, .refusalLow m, .refusalReason m, .refusalCount m, .flags m, .mask m] ++
      [PartWord.cause m] := by
    unfold attentionWords at hw
    split at hw
    · exact hw
    · exact List.mem_append_left _ (by simpa using hw)
  simp only [List.cons_append, List.nil_append, List.mem_cons, List.not_mem_nil, or_false] at hsub
  obtain rfl | rfl | rfl | rfl | rfl | rfl | rfl := hsub <;> simp only [partWord, h, Attention.cause]

theorem attentionWrite_partWord {p : Part} (hp : p.calm) (ha : p.accepted = true) (n m : Lane)
    (f : Attention → Attention) {w : PartWord} (hw : w ∈ attentionWords p m) :
    partWord (attentionWrite p n m f) w = partWord (p.setAtt m f) w := by
  obtain ⟨-, hatt⟩ := attentionWrite_frame hp ha n m f
  refine partWord_of_att (line := ((attentionWrite p n m f).att m).line) hw ((hatt m).trans ?_)
  rw [if_pos rfl, att_setAtt, if_pos rfl]

/-- With room the write of lane `n` completes, lane `m`'s line has its level, the words that change are placed, and no
other word is; `ws` are the words that the change `f` can change. -/
theorem attentionWrite_completes {p : Part} {n m : Lane} {a : Addr} {v : Word} {f : Attention → Attention}
    {ws : List PartWord} (hp : p.calm) (ha : p.accepted = true) (hwrite : p.laneWrite n = some (a, v))
    (hws : changedBy p m f = ws.filter fun w => (partWord p w).2 != (partWord (p.setAtt m f) w).2)
    (hsub : ws ⊆ attentionWords p m) (hroom : p.room ws.length) :
    let t := attentionWrite p n m f
    (t.lane n).access = none ∧ (t.att m).line = (t.att m).raised ∧
      (∀ w ∈ ws, (partWord t w).2 ≠ (partWord p w).2 → p.noPass (partWord p w).1 →
        queueFind t.queue (partWord p w).1 = some (partWord t w).2) ∧
      ∀ x, queueFind t.queue x ≠ queueFind p.queue x →
        ∃ w ∈ ws, x = (partWord p w).1 ∧ (partWord t w).2 ≠ (partWord p w).2 := by
  intro t
  let s := (p.setAtt m f).markDecided n
  have hlen : (changedBy p m f).length ≤ ws.length := hws ▸ List.length_filter_le ..
  obtain ⟨q, hsync, heq⟩ := attentionWrite_room hp ha n m f (hroom.trans' (Nat.add_le_add_left hlen _))
  have hqueue : t.queue = q.queue := by
    rw [show t = _ from heq]
    rfl
  have hmem (w : PartWord) : w ∈ changedBy p m f ↔ w ∈ ws ∧ (partWord t w).2 ≠ (partWord p w).2 := by
    rw [hws, List.mem_filter, bne_iff_ne, ne_comm]
    exact and_congr_right fun hw => by rw [attentionWrite_partWord hp ha n m f (hsub hw)]
  refine ⟨?access, ?line, fun w hw hne hpass => ?placed, fun x hx => ?others⟩
  case access =>
    rw [show t = _ from heq]
    show (((bringLine q m).finish n).lane n).access = none
    rw [Part.finish, lane_setLane, if_pos rfl]
  case line =>
    rw [show t = _ from heq]
    show ((bringLine q m).att m).line = ((bringLine q m).att m).raised
    rw [bringLine, att_setAtt, if_pos rfl]
    rfl
  case placed =>
    have hword : partWord s w = partWord (p.setAtt m f) w :=
      partWord_of_att (line := (s.att m).line) (hsub hw) (by simp only [s, Part.att, markDecided_attention])
    have hfound := hsync.found w ((hmem w).2 ⟨hw, hne⟩)
    rw [partWord_addr _ p w] at hfound
    rw [hqueue, hfound (noPass_markDecided hwrite m f hpass), attentionWrite_partWord hp ha n m f (hsub hw), hword]
  case others =>
    by_contra hnone
    have hkept : queueFind q.queue x = queueFind s.queue x := hsync.kept x fun w hw e => by
      obtain ⟨hw, hne⟩ := (hmem w).1 hw
      exact hnone ⟨w, hw, e.trans (partWord_addr s p w), hne⟩
    refine hx ?_
    rw [hqueue, hkept, markDecided_queue]
    rfl

/-! ### The two commands -/

/-- R154: the flags of the positions written 1 are cleared, and with REFUSED the refusal count. -/
def clearing (v : Word) (t : Attention) : Attention :=
  { t with
    flags := t.flags &&& ~~~v
    count := if Flag.refused.isIn t.flags && Flag.refused.isIn v then 0 else t.count }

/-- R156: the mask is replaced. -/
def masking (v : Word) (t : Attention) : Attention := { t with mask := v }

theorem clearing_zero (t : Attention) : clearing 0 t = t := by
  have hflags : t.flags &&& ~~~(0 : Word) = t.flags := BitVec.and_allOnes
  have hrefused : Flag.refused.isIn 0 = false := rfl
  rw [clearing, hflags, hrefused, Bool.and_false, if_neg Bool.false_ne_true]

/-- A clearing leaves the mask, address and reason words as they are. -/
theorem changedBy_clearing {p : Part} (ha : p.accepted = true) (n : Lane) (v : Word) :
    changedBy p n (clearing v) = [.refusalCount n, .flags n, .cause n].filter fun w =>
      (partWord p w).2 != (partWord (p.setAtt n (clearing v)) w).2 := by
  simp [changedBy, attentionWords, ha, List.filter_cons, partWord, att_setAtt, clearing]

/-- A new mask leaves the flags and the refusal record as they are. -/
theorem changedBy_masking {p : Part} (ha : p.accepted = true) (m : Lane) (v : Word) :
    changedBy p m (masking v) = [.mask m, .cause m].filter fun w =>
      (partWord p w).2 != (partWord (p.setAtt m (masking v)) w).2 := by
  simp [changedBy, attentionWords, ha, List.filter_cons, partWord, att_setAtt, masking]

theorem changedBy_clearing_zero (p : Part) (n : Lane) : changedBy p n (clearing 0) = [] := by
  have hsame : p.setAtt n (clearing 0) = p := by
    rw [Part.setAtt, upd, clearing_zero, Fin.getElem_fin, Vector.set_getElem_self]
  rw [changedBy, hsame]
  simp

theorem exec_ownedWrite (n : Lane) (s : State) : exec (.ownedWrite n) s = execOwnedWrite n s := rfl
theorem exec_flagClear (n : Lane) (s : State) : exec (.flagClear n) s = execFlagClear n s := rfl
theorem exec_maskWrite (n : Lane) (s : State) : exec (.maskWrite n) s = execMaskWrite n s := rfl

/-- OWNED_WRITE of a read-only word hands its lane the refusal. -/
theorem ownedWrite_readOnly {s : State} {n : Lane} {a : Addr} {v : Word} (h : s.part.laneWrite n = some (a, v))
    (ht : s.part.treatment n a = .readOnly) :
    exec (.ownedWrite n) s = .next { s with part := settle (s.part.handRefusal n .readOnly) } := by
  rw [exec_ownedWrite, execOwnedWrite, onPart, onWrite_eq h, if_pos ht]

theorem flagClear_eq {s : State} {n : Lane} {a : Addr} {v : Word}
    (h : s.part.offers n a v .flagWord .attention) :
    exec (.flagClear n) s = .next { s with part := attentionWrite s.part n n (clearing v) } := by
  obtain ⟨hwrite, htreat, -, hfree⟩ := h
  rw [exec_flagClear, execFlagClear, onPart, onWrite_eq hwrite, if_pos htreat, decideLane_ok hfree]
  rfl

theorem maskWrite_eq {s : State} {n m : Lane} {a : Addr} {v : Word}
    (h : s.part.offers n a v (.maskWord m) .attention) :
    exec (.maskWrite n) s = .next { s with part := attentionWrite s.part n m (masking v) } := by
  obtain ⟨hwrite, htreat, -, hfree⟩ := h
  rw [exec_maskWrite, execMaskWrite, onPart, onWrite_eq hwrite, htreat]
  dsimp only
  rw [decideLane_ok hfree]
  rfl

/-- Settles O18: a lane's flag and mask words, and the words that the commands of their writes place. -/
theorem flagClearAndMaskWrite : Obligations.FlagClearAndMaskWrite := by
  refine ⟨fun p n m ha => ⟨treatment_flagWord ha n m, treatment_maskWord ha n m⟩, ?refused, ?cleared, ?masked⟩
  case refused =>
    intro n m s a v p hp ha hwrite hnm hword
    have ht : p.treatment n a = .readOnly := by
      obtain rfl | ⟨rfl, hn⟩ := hword
      · rw [treatment_flagWord ha, if_neg hnm]
      · rw [treatment_maskWord ha, if_neg (not_or.2 ⟨hnm, hn⟩)]
    exact ⟨_, ownedWrite_readOnly hwrite ht, refuses_handRefusal hwrite hp .readOnly⟩
  case cleared =>
    intro n s a v p hoffer
    have ⟨hwrite, htreat, hp, _⟩ := hoffer
    have ha : p.accepted = true := accepted_of_treatment htreat nofun nofun nofun
    obtain ⟨hplaced, hatt⟩ := attentionWrite_frame hp ha n n (clearing v)
    refine ⟨_, flagClear_eq hoffer, hplaced, fun m hm => (hatt m).trans (if_neg hm), ?_, ?_, fun hroom => ?_⟩
    · simpa [clearing] using hatt n
    · rintro rfl
      exact attentionWrite_queue hp ha n n _ (changedBy_clearing_zero p n)
    · obtain ⟨haccess, hline, hfound, hothers⟩ := attentionWrite_completes hp ha hwrite (changedBy_clearing ha n v)
        (by simp [attentionWords, ha]) hroom
      refine ⟨haccess, hline, hfound (.flags n) (by simp), hfound (.cause n) (by simp),
        hfound (.refusalCount n) (by simp), fun x hx => ?_⟩
      obtain ⟨w, hw, rfl, hne⟩ := hothers x hx
      obtain rfl | rfl | rfl : w = .refusalCount n ∨ w = .flags n ∨ w = .cause n := by simpa using hw
      · exact .inr (.inr ⟨rfl, hne⟩)
      · exact .inl ⟨rfl, hne⟩
      · exact .inr (.inl ⟨rfl, hne⟩)
  case masked =>
    intro n m s a v p hoffer
    have ⟨hwrite, htreat, hp, _⟩ := hoffer
    have ha : p.accepted = true := accepted_of_treatment htreat nofun nofun nofun
    obtain ⟨hplaced, hatt⟩ := attentionWrite_frame hp ha n m (masking v)
    have hself := (hatt m).trans (if_pos rfl)
    have hmask : ((attentionWrite p n m (masking v)).att m).mask = v := congrArg (·.mask) hself
    refine ⟨_, maskWrite_eq hoffer, hplaced, fun k hk => (hatt k).trans (if_neg hk), hself, fun hroom => ?_⟩
    obtain ⟨haccess, hline, hfound, hothers⟩ := attentionWrite_completes hp ha hwrite (changedBy_masking ha m v)
      (by simp [attentionWords, ha]) hroom
    have hmaskWord := hfound (.mask m) (by simp)
    have hmaskValue : (partWord (attentionWrite p n m (masking v)) (.mask m)).2 = v := hmask
    rw [hmaskValue] at hmaskWord
    refine ⟨haccess, hline, hmaskWord, hfound (.cause m) (by simp), fun x hx => ?_⟩
    obtain ⟨w, hw, rfl, hne⟩ := hothers x hx
    obtain rfl | rfl : w = .mask m ∨ w = .cause m := by simpa using hw
    · exact .inl ⟨rfl, hmaskValue ▸ hne⟩
    · exact .inr ⟨rfl, hne⟩

end Sys2Proof.Proofs
end
